-- ==== Sys2Proof/Word.lean ====
section
/-! DEFINITION. The words, bytes and blocks of the FBC, and the named values of its command and access fields. -/

namespace Sys2Proof

/-- A word: 32 bits, unsigned (00_scope.md R8). -/
abbrev Word := BitVec 32

/-- A byte: 8 bits, unsigned (00_scope.md R8). -/
abbrev Byte := BitVec 8

/-- A block read as its two words, the left and the right one (00_scope.md R9, 10_state.md R33). -/
structure Block where
  l : Word
  r : Word
deriving DecidableEq, Repr

/-- The chain start that FLAGS.CHS selects (30_encoding.md R84). The value 0b11 is reserved and no command has it. -/
inductive ChainStart where
  | zero
  | iv
  | cont
deriving DecidableEq, Repr

/-- The width of a host access (20_memory.md R52, R53). None is wider than 32 bits. -/
inductive Width where
  | w8
  | w16
  | w32
deriving DecidableEq, Repr

end Sys2Proof
end

