-- ==== Sys2Proof/Config.lean ====
section
/-! DEFINITION. What this hardware fixes (00_scope.md R7) and the values that the spec leaves open.
An `opaque` constant has no body: no proof can see a value of it, so a claim holds for every value. -/

namespace Sys2Proof.Config

/-- The ID register's constant, "FBC1" (10_state.md R21). -/
def idValue : Word := 0x46424331#32

/-- WINDOW_BYTES (00_scope.md R7). -/
def windowBytes : Nat := 4096

/-- KEY_BYTES: the KEY buffer's size, and the largest legal KEYLEN (00_scope.md R7, 41_block_cipher.md R110). -/
def keyBytes : Nat := 80

/-- CAP_LEGACY, the key cap of CAP56 = 0 (00_scope.md R7, 41_block_cipher.md R104). -/
def capLegacy : Nat := 80

/-- CAP_STANDARD, the key cap of CAP56 = 1 (00_scope.md R7, 41_block_cipher.md R104). -/
def capStandard : Nat := 56

/-- IBUF_BYTES (00_scope.md R7). -/
def ibufBytes : Nat := 1024

/-- OBUF_BYTES (00_scope.md R7). -/
def obufBytes : Nat := 2048

/-- CTR_MOD, the IV counter's modulus (00_scope.md R7, 10_state.md R28). -/
def ctrMod : Nat := 65534

/-- B64_LINE: the characters of a line when WRAP = 1 (00_scope.md R7, 44_base64.md R173). -/
def b64Line : Nat := 76

/-- OPEN, log 11. BASE is `basePage * 4096`, so it is a multiple of 4096 whatever this is (20_memory.md R51). -/
opaque basePage : Nat

/-- BASE, the window's bus address (20_memory.md R51). -/
def base : Nat := basePage * windowBytes

/-- OPEN, log 4. PRNG_SEED : u32 → Σ (00_scope.md R7, 10_state.md R36), an element of Σ being coded as a number. -/
opaque prngSeed : Word → Nat

/-- OPEN, log 4. PRNG_NEXT : Σ → Σ × u32 (00_scope.md R7, 10_state.md R36). -/
opaque prngNext : Nat → Nat × Word

/-- OPEN, log 6. LATENCY: how many steps pass between the issue that is the n-th draw and the core's step
(70_reset_and_hazards.md R238). -/
opaque latency : Nat → Nat

/-- FREE, log 8. What the n-th draw gives to a read while BUSY = 1 (70_reset_and_hazards.md R233). -/
opaque busyRead : Nat → Word

/-- FREE, log 1. After the n-th reset, the byte at a window offset that nothing has written since
(70_reset_and_hazards.md R236). -/
opaque unwrittenByte : Nat → Nat → Byte

end Sys2Proof.Config
end

