-- ==== Sys2Proof/Syntax.lean ====
section
/-! DEFINITION. The commands of the FBC, one constructor per row of spec/opcode_table.json (30_encoding.md R83).
No command has an operand field (R86); an argument is a flag of FLAGS (R84). -/

namespace Sys2Proof

/-- A command that the FBC performs (30_encoding.md R83). -/
inductive Instr where
  /-- NOP (41_block_cipher.md R114). -/
  | nop
  /-- KEY_INIT (41_block_cipher.md R110). -/
  | keyInit (cap56 : Bool)
  /-- ENC_BLK (41_block_cipher.md R112). -/
  | encBlk
  /-- DEC_BLK (41_block_cipher.md R113). -/
  | decBlk
  /-- ECB_ENC (43_modes_and_iv.md R145). -/
  | ecbEnc
  /-- ECB_DEC (43_modes_and_iv.md R146). -/
  | ecbDec
  /-- CBC_ENC (43_modes_and_iv.md R150). -/
  | cbcEnc (chs : ChainStart) (piv : Bool)
  /-- CBC_DEC (43_modes_and_iv.md R151). -/
  | cbcDec (chs : ChainStart) (drop : Bool)
  /-- IV_GEN (43_modes_and_iv.md R153). -/
  | ivGen
  /-- B64_ENC (44_base64.md R172). -/
  | b64Enc (wrap : Bool)
  /-- B64_DEC (44_base64.md R175). -/
  | b64Dec (strict : Bool)
  /-- LB64_ENC (44_base64.md R182). -/
  | lb64Enc
  /-- LB64_DEC (44_base64.md R184). -/
  | lb64Dec
  /-- XFER (43_modes_and_iv.md R156). -/
  | xfer
deriving DecidableEq, Repr

end Sys2Proof
end

