-- ==== Sys2Proof/WellFormed.lean ====
section
/-! DEFINITION. When a command word is legal, as 30_encoding.md R85 says it, word by word and apart from the
decoder. An `Instr` carries only legal flag values, so its own check never fails; the ill-formed terms are words. -/

namespace Sys2Proof

/-- The three fields of a command word (30_encoding.md R81). -/
structure CommandWord where
  rsvd : BitVec 16
  flags : BitVec 8
  opc : BitVec 8
deriving DecidableEq, Repr

/-- The fields of a word (30_encoding.md R81). -/
def CommandWord.ofWord (v : Word) : CommandWord :=
  { rsvd := v.extractLsb' 16 16, flags := v.extractLsb' 8 8, opc := v.extractLsb' 0 8 }

/-- RSVD must be 0 (30_encoding.md R81, R85). -/
def CommandWord.rsvdOk (c : CommandWord) : Bool := c.rsvd == 0#16

/-- OPC values 0x0E..0xFF are reserved (30_encoding.md R83, R85). -/
def CommandWord.opcOk (c : CommandWord) : Bool := c.opc.toNat < 0x0E

/-- The FLAGS bits that an opcode defines (30_encoding.md R83). -/
def CommandWord.definedFlags (c : CommandWord) : BitVec 8 :=
  if c.opc = 0x06#8 ∨ c.opc = 0x07#8 then 0x07#8
  else if c.opc = 0x01#8 ∨ c.opc = 0x09#8 ∨ c.opc = 0x0A#8 then 0x01#8
  else 0x00#8

/-- No FLAGS bit outside the opcode's DEFINED_FLAGS is set (30_encoding.md R85). -/
def CommandWord.flagsOk (c : CommandWord) : Bool := c.flags &&& ~~~c.definedFlags == 0#8

/-- CHS is not 0b11 where the opcode has a CHS field (30_encoding.md R84, R85). -/
def CommandWord.chsOk (c : CommandWord) : Bool :=
  !((c.opc == 0x06#8 || c.opc == 0x07#8) && c.flags.extractLsb' 0 2 == 0b11#2)

/-- A word that is not ILLEGAL (30_encoding.md R85). -/
def CommandWord.wf (c : CommandWord) : Bool := c.rsvdOk && c.opcOk && c.flagsOk && c.chsOk

/-- The 2-bit CHS value of a chain start (30_encoding.md R84). -/
def ChainStart.chs : ChainStart → BitVec 2
  | .zero => 0b00#2
  | .iv => 0b01#2
  | .cont => 0b10#2

/-- Well-formedness of a command: its CHS, where it has one, is not the reserved value (30_encoding.md R84). -/
def Instr.wf : Instr → Bool
  | .nop => true
  | .keyInit _ => true
  | .encBlk => true
  | .decBlk => true
  | .ecbEnc => true
  | .ecbDec => true
  | .cbcEnc chs _ => chs.chs != 0b11#2
  | .cbcDec chs _ => chs.chs != 0b11#2
  | .ivGen => true
  | .b64Enc _ => true
  | .b64Dec _ => true
  | .lb64Enc => true
  | .lb64Dec => true
  | .xfer => true

end Sys2Proof
end

