-- ==== Sys2Proof/Decode.lean ====
section
/-! DEFINITION. The decoder, total on all 2^32 words (30_encoding.md R82), and the encoder, from the same tables. -/

namespace Sys2Proof

/-- Why a word is ILLEGAL (30_encoding.md R82, R85). The machine answers all four with the one code ILLEGAL. -/
inductive Illegal where
  | reservedBits
  | unknownOpcode
  | undefinedFlags
  | reservedChainStart
deriving DecidableEq, Repr

/-- DEFINED_FLAGS of an opcode, none where the opcode map has no row (30_encoding.md R83). -/
def definedFlags (opc : BitVec 8) : Option (BitVec 8) :=
  match opc.toNat with
  | 0x00 => some 0x00#8
  | 0x01 => some 0x01#8
  | 0x02 => some 0x00#8
  | 0x03 => some 0x00#8
  | 0x04 => some 0x00#8
  | 0x05 => some 0x00#8
  | 0x06 => some 0x07#8
  | 0x07 => some 0x07#8
  | 0x08 => some 0x00#8
  | 0x09 => some 0x01#8
  | 0x0A => some 0x01#8
  | 0x0B => some 0x00#8
  | 0x0C => some 0x00#8
  | 0x0D => some 0x00#8
  | _ => none

/-- FLAGS[1:0] as a chain start, none for the reserved value (30_encoding.md R84). -/
def chainStartOf (flags : BitVec 8) : Option ChainStart :=
  match flags[1], flags[0] with
  | false, false => some .zero
  | false, true => some .iv
  | true, false => some .cont
  | true, true => none

/-- The command of an opcode and its flags (30_encoding.md R83, R84). -/
def instrOf (opc flags : BitVec 8) : Except Illegal Instr :=
  match opc.toNat with
  | 0x00 => .ok .nop
  | 0x01 => .ok (.keyInit flags[0])
  | 0x02 => .ok .encBlk
  | 0x03 => .ok .decBlk
  | 0x04 => .ok .ecbEnc
  | 0x05 => .ok .ecbDec
  | 0x06 => match chainStartOf flags with
    | some chs => .ok (.cbcEnc chs flags[2])
    | none => .error .reservedChainStart
  | 0x07 => match chainStartOf flags with
    | some chs => .ok (.cbcDec chs flags[2])
    | none => .error .reservedChainStart
  | 0x08 => .ok .ivGen
  | 0x09 => .ok (.b64Enc flags[0])
  | 0x0A => .ok (.b64Dec flags[0])
  | 0x0B => .ok .lb64Enc
  | 0x0C => .ok .lb64Dec
  | 0x0D => .ok .xfer
  | _ => .error .unknownOpcode

/-- The decoder (30_encoding.md R82). -/
def decode (v : Word) : Except Illegal Instr :=
  let opc := v.extractLsb' 0 8
  let flags := v.extractLsb' 8 8
  if v.extractLsb' 16 16 ≠ 0#16 then .error .reservedBits
  else match definedFlags opc with
    | none => .error .unknownOpcode
    | some defined =>
      if flags &&& ~~~defined ≠ 0#8 then .error .undefinedFlags else instrOf opc flags

/-- A command's OPC (30_encoding.md R83). -/
def opcOf : Instr → BitVec 8
  | .nop => 0x00#8
  | .keyInit _ => 0x01#8
  | .encBlk => 0x02#8
  | .decBlk => 0x03#8
  | .ecbEnc => 0x04#8
  | .ecbDec => 0x05#8
  | .cbcEnc _ _ => 0x06#8
  | .cbcDec _ _ => 0x07#8
  | .ivGen => 0x08#8
  | .b64Enc _ => 0x09#8
  | .b64Dec _ => 0x0A#8
  | .lb64Enc => 0x0B#8
  | .lb64Dec => 0x0C#8
  | .xfer => 0x0D#8

/-- CHS in FLAGS[1:0] (30_encoding.md R84). -/
def chsFlags : ChainStart → BitVec 8
  | .zero => 0x00#8
  | .iv => 0x01#8
  | .cont => 0x02#8

/-- A one-bit flag at FLAGS bit `k` (30_encoding.md R84). -/
def flagBit (k : Nat) (b : Bool) : BitVec 8 := if b then 1#8 <<< k else 0#8

/-- A command's FLAGS (30_encoding.md R84). -/
def flagsOf : Instr → BitVec 8
  | .nop => 0#8
  | .keyInit cap56 => flagBit 0 cap56
  | .encBlk => 0#8
  | .decBlk => 0#8
  | .ecbEnc => 0#8
  | .ecbDec => 0#8
  | .cbcEnc chs piv => chsFlags chs ||| flagBit 2 piv
  | .cbcDec chs drop => chsFlags chs ||| flagBit 2 drop
  | .ivGen => 0#8
  | .b64Enc wrap => flagBit 0 wrap
  | .b64Dec strict => flagBit 0 strict
  | .lb64Enc => 0#8
  | .lb64Dec => 0#8
  | .xfer => 0#8

/-- The command word of a command (30_encoding.md R81). -/
def encode (i : Instr) : Word := (flagsOf i).setWidth 32 <<< 8 ||| (opcOf i).setWidth 32

/-- The command that the decoder reads from an instruction of `nbits` bits whose value is `w`, the bits above
`nbits` being 0. A command word is one 32-bit number on the bus (30_encoding.md R80, R81), so it has no byte order. -/
def decodeTableWord (nbits w : Nat) : Option Instr :=
  match decode (BitVec.ofNat 32 (w % 2 ^ nbits)) with
  | .ok i => some i
  | .error _ => none

end Sys2Proof
end

