-- ==== Sys2Proof/Machine/State.lean ====
section
/-! DEFINITION. The machine's state (10_state.md R38), plain data, and the state after reset
(70_reset_and_hazards.md R230). -/

namespace Sys2Proof.Machine

/-- The result codes that a command can leave in STATUS.RESULT (60_exceptions.md R201). Codes 7..15 are never
produced, so they have no constructor. -/
inductive ResultCode where
  | ok
  | illegal
  | noKey
  | keyLen
  | inLen
  | overflow
  | b64Format
deriving DecidableEq, Repr

/-- The schedule RAM: P[0..17] and S[0..3][0..255] (10_state.md R35). -/
structure Schedule where
  p : Vector Word 18
  s : Vector (Vector Word 256) 4
deriving DecidableEq, Repr

/-- The bytes of KEY, IBUF and OBUF by window offset (20_memory.md R50). An offset that is not listed holds a byte
that nothing has written since reset (70_reset_and_hazards.md R236). -/
abbrev Memory := List Host.Cell

/-- What can come to the FBC from outside: a bus access at an offset of the window (20_memory.md R50), or a reset
(70_reset_and_hazards.md R231). -/
inductive HostEvent where
  /-- A host read (00_scope.md R10, MemRead). -/
  | read (width : Width) (off : BitVec 12)
  /-- A host write of `v`, of which an access narrower than 32 bits carries the low bytes (00_scope.md R10). -/
  | write (width : Width) (off : BitVec 12) (v : Word)
  /-- A reset, a power-off being one too (60_exceptions.md R214). -/
  | reset
deriving DecidableEq, Repr

/-- What the window answers to a legal access (20_memory.md R55), with the access that it answers. -/
inductive Reply where
  /-- A read, and its value. -/
  | data (width : Width) (off : BitVec 12) (v : Word)
  /-- A write of `v`, accepted, ignored or dropped alike: none is an error to the bus (70_reset_and_hazards.md R232). -/
  | written (width : Width) (off : BitVec 12) (v : Word)
deriving DecidableEq, Repr

/-- The state of 10_state.md R38, and after it the model's own fields, which stand for the OPEN latency, the host
and the free values. -/
structure State where
  /-- STATUS.KEYVALID (R23). -/
  keyValid : Bool
  /-- STATUS.SEEDED (R23). -/
  seeded : Bool
  /-- STATUS.BUSYERR (R23). -/
  busyErr : Bool
  /-- STATUS.RESULT (R23). -/
  result : ResultCode
  /-- KEYLEN (R24). -/
  keyLen : BitVec 7
  /-- INLEN (R25). -/
  inLen : BitVec 12
  /-- OUTLEN (R26). -/
  outLen : BitVec 12
  /-- TIME (R27). -/
  time : Word
  /-- CTR (R28). -/
  ctr : BitVec 16
  /-- IV_L (R29). -/
  ivL : Word
  /-- IV_R (R29). -/
  ivR : Word
  /-- CHAIN_L (R30). -/
  chainL : Word
  /-- CHAIN_R (R30). -/
  chainR : Word
  /-- BLK_L (R31). -/
  blkL : Word
  /-- BLK_R (R31). -/
  blkR : Word
  /-- KEY, IBUF and OBUF (R32). -/
  mem : Memory
  /-- The schedule RAM (R35). -/
  sched : Schedule
  /-- σ, the PRNG state (R36), an element of Σ coded as a number (log 4). -/
  sigma : Nat
  /-- The latched command word, held while BUSY = 1 (R34), so STATUS.BUSY is that there is one (log 5). -/
  latched : Option Word
  /-- The model's own: the steps that the command in flight still takes (log 6). -/
  wait : Nat
  /-- The model's own: what comes from outside and has not been served, oldest first (log 7). -/
  pending : List HostEvent
  /-- The model's own: the accesses that have completed, each with its answer, oldest first (log 7). -/
  replies : List Reply
  /-- The model's own: how many free values have been drawn (log 6, log 8). -/
  draws : Nat
  /-- The model's own: how many resets have happened (log 1, log 13). -/
  resets : Nat
deriving DecidableEq, Repr

/-- Why the machine stops. -/
inductive Fault where
  /-- Raised by `Sys2Proof.Machine.serve` for a host access that 20_memory.md R52 or R53 makes illegal. R57: a model treats a
  BusError as a fault of the host program that made the access. Safe: the model stops where the FBC would answer
  with an error and go on unchanged (log 9). -/
  | busError (access : HostEvent)
deriving DecidableEq, Repr

/-- Why the machine gives no meaning. -/
inductive Refusal where
  /-- Raised by `Sys2Proof.Machine.exec` for a command that has no meaning in the model yet. Safe: nothing is said of it. -/
  | notModelled (mnemonic : String)
deriving DecidableEq, Repr

/-- STATUS.BUSY: a command is latched (10_state.md R34; log 5). -/
def State.busy (s : State) : Bool := s.latched.isSome

/-- The machine right after reset (70_reset_and_hazards.md R230). The spec gives no value for the schedule RAM
(log 2) and σ (log 3), and the last five fields are the model's own. -/
def State.reset : State where
  keyValid := false
  seeded := false
  busyErr := false
  result := .ok
  keyLen := 0#7
  inLen := 0#12
  outLen := 0#12
  time := 0#32
  ctr := 0#16
  ivL := 0#32
  ivR := 0#32
  chainL := 0#32
  chainR := 0#32
  blkL := 0#32
  blkR := 0#32
  mem := []
  sched := { p := .replicate 18 0#32, s := .replicate 4 (.replicate 256 0#32) }
  sigma := 0
  latched := none
  wait := 0
  pending := []
  replies := []
  draws := 0
  resets := 0

end Sys2Proof.Machine
end

