-- ==== Sys2Proof/Machine/Ops.lean ====
section
/-! DEFINITION. The named operations over memory, and how a command ends: `complete` and `raise CmdError`
(00_scope.md R10, 60_exceptions.md R200), which are the FBC's whole exception entry (R206). -/

namespace Sys2Proof.Machine

/-- Offset of KEY in the window (20_memory.md R50). -/
def keyOff : Nat := 0x100

/-- Offset of IBUF in the window (20_memory.md R50). -/
def ibufOff : Nat := 0x400

/-- Offset of OBUF in the window (20_memory.md R50). -/
def obufOff : Nat := 0x800

/-- The byte stored at an offset, none where nothing has written one since reset (70_reset_and_hazards.md R236). -/
def Memory.read : Memory → Nat → Option Byte
  | [], _ => none
  | (k, b) :: m, a => if a = k then some b else Memory.read m a

/-- Store a byte at an offset, keeping the offsets rising. -/
def Memory.write : Memory → Nat → Byte → Memory
  | [], a, b => [(a, b)]
  | (k, c) :: m, a, b =>
    if a < k then (a, b) :: (k, c) :: m
    else if a = k then (a, b) :: m
    else (k, c) :: Memory.write m a b

/-- Store bytes from an offset up. -/
def Memory.writeBytes : Memory → Nat → List Byte → Memory
  | m, _, [] => m
  | m, a, b :: bs => Memory.writeBytes (m.write a b) (a + 1) bs

/-- The canonical form: offsets strictly rising. An unlisted offset holds no value, so no entry equals it. -/
abbrev Memory.wf (m : Memory) : Prop := m.Pairwise (fun x y => x.1 < y.1)

/-- What a buffer offset holds: the byte last written, or, where nothing has written one since reset, a free value
that stays the same until it is written (70_reset_and_hazards.md R236; log 1). -/
def State.byteAt (s : State) (a : Nat) : Byte := (s.mem.read a).getD (Config.unwrittenByte s.resets a)

/-- The `n` bytes from an offset up. -/
def State.bytes (s : State) (a n : Nat) : List Byte := (List.range n).map (fun i => s.byteAt (a + i))

/-- KEY[0..n) (10_state.md R32). -/
def State.key (s : State) (n : Nat) : List Byte := s.bytes keyOff n

/-- IBUF[0..n) (10_state.md R32). -/
def State.ibuf (s : State) (n : Nat) : List Byte := s.bytes ibufOff n

/-- OBUF[0..n) (10_state.md R32). -/
def State.obuf (s : State) (n : Nat) : List Byte := s.bytes obufOff n

/-- Write a command's output: OBUF[0..len) and OUTLEN, and nothing above it (10_state.md R26, R32). -/
def State.putOutput (s : State) (out : List Byte) : State :=
  { s with mem := s.mem.writeBytes obufOff out, outLen := BitVec.ofNat 12 out.length }

/-- The end of a command: RESULT is its code and BUSY is 0 (00_scope.md R10, 60_exceptions.md R200). The latched
command is held while BUSY = 1 only (10_state.md R34). -/
def State.finish (s : State) (code : ResultCode) : State := { s with result := code, latched := none }

/-- complete(OK) (00_scope.md R10). -/
def complete (s : State) : Host.Outcome State Fault Refusal := .next (s.finish .ok)

/-- raise CmdError(code) (60_exceptions.md R200). -/
def raise (code : ResultCode) (s : State) : Host.Outcome State Fault Refusal := .next (s.finish code)

/-- raise CmdError(code) with OUTLEN <- 0, as the eight commands that write OBUF raise (60_exceptions.md R200). -/
def raiseNoOutput (code : ResultCode) (s : State) : Host.Outcome State Fault Refusal :=
  .next ({ s with outLen := 0#12 }.finish code)

end Sys2Proof.Machine
end

