-- ==== Sys2Proof/Machine/Flags.lean ====
section
/-! DEFINITION. The STATUS register: its word, the result codes in it, and the one write it takes (10_state.md R23,
R37; 60_exceptions.md R201). -/

namespace Sys2Proof.Machine

/-- The number of a result code (60_exceptions.md R201). -/
def ResultCode.code : ResultCode → BitVec 4
  | .ok => 0#4
  | .illegal => 1#4
  | .noKey => 2#4
  | .keyLen => 3#4
  | .inLen => 4#4
  | .overflow => 5#4
  | .b64Format => 6#4

/-- What a read of STATUS returns: RESULT in 11:8, BUSYERR, SEEDED, KEYVALID and BUSY in 3..0, 0 elsewhere
(10_state.md R23). -/
def State.statusWord (s : State) : Word :=
  s.result.code.setWidth 32 <<< 8 ||| (BitVec.ofBool s.busyErr).setWidth 32 <<< 3
    ||| (BitVec.ofBool s.seeded).setWidth 32 <<< 2 ||| (BitVec.ofBool s.keyValid).setWidth 32 <<< 1
    ||| (BitVec.ofBool s.busy).setWidth 32

/-- A write to STATUS: 1 in bit 3 clears BUSYERR, and nothing else happens (10_state.md R23). -/
def State.writeStatus (s : State) (v : Word) : State := { s with busyErr := s.busyErr && !v[3] }

/-- The effect of a host write that is dropped because BUSY = 1 (70_reset_and_hazards.md R232). -/
def State.dropWrite (s : State) : State := { s with busyErr := true }

end Sys2Proof.Machine
end

