-- ==== Sys2Proof/Machine/Operands.lean ====
section
/-! DEFINITION. The operands of the commands: byte strings as words and blocks, padding, and the two byte orders,
that of blocks (00_scope.md R9, 10_state.md R33) and that of the bus (20_memory.md R54). -/

namespace Sys2Proof.Machine

/-- Four bytes as a word, the first in bits 31:24 (00_scope.md R9). -/
def be32 (b0 b1 b2 b3 : Byte) : Word :=
  b0.setWidth 32 <<< 24 ||| b1.setWidth 32 <<< 16 ||| b2.setWidth 32 <<< 8 ||| b3.setWidth 32

/-- A word as four bytes, bits 31:24 first (00_scope.md R9). -/
def unbe32 (w : Word) : List Byte :=
  [w.extractLsb' 24 8, w.extractLsb' 16 8, w.extractLsb' 8 8, w.extractLsb' 0 8]

/-- A block written back as bytes (10_state.md R33). -/
def blockBytes (b : Block) : List Byte := unbe32 b.l ++ unbe32 b.r

/-- A byte string whose length is a multiple of 8 as its blocks in order (10_state.md R33, 43_modes_and_iv.md R141). -/
def blocks : List Byte → List Block
  | a0 :: a1 :: a2 :: a3 :: b0 :: b1 :: b2 :: b3 :: rest =>
    { l := be32 a0 a1 a2 a3, r := be32 b0 b1 b2 b3 } :: blocks rest
  | _ => []

/-- The bytes of blocks in order (43_modes_and_iv.md R141). -/
def bytesOf (bs : List Block) : List Byte := bs.flatMap blockBytes

/-- The smallest multiple of 8 that is at least `n` (00_scope.md R8). -/
def pad8 (n : Nat) : Nat := (n + 7) / 8 * 8

/-- A byte string with zeros up to a multiple of 8, and none beyond (43_modes_and_iv.md R140). -/
def zeroPad (src : List Byte) : List Byte := src ++ List.replicate (pad8 src.length - src.length) 0#8

/-- The word-wise exclusive or of two blocks (43_modes_and_iv.md R150). -/
def blockXor (a b : Block) : Block := { l := a.l ^^^ b.l, r := a.r ^^^ b.r }

/-- The block of IV_L and IV_R (10_state.md R29). -/
def State.iv (s : State) : Block := { l := s.ivL, r := s.ivR }

/-- The block of CHAIN_L and CHAIN_R (10_state.md R30). -/
def State.chain (s : State) : Block := { l := s.chainL, r := s.chainR }

/-- The block of BLK_L and BLK_R (10_state.md R31). -/
def State.blk (s : State) : Block := { l := s.blkL, r := s.blkR }

/-- The bytes of an access (20_memory.md R53). -/
def widthBytes : Width → Nat
  | .w8 => 1
  | .w16 => 2
  | .w32 => 4

/-- An n-byte read's value on little-endian lanes (20_memory.md R54). -/
def State.readLanes (s : State) (width : Width) (a : Nat) : Word :=
  match width with
  | .w8 => be32 0#8 0#8 0#8 (s.byteAt a)
  | .w16 => be32 0#8 0#8 (s.byteAt (a + 1)) (s.byteAt a)
  | .w32 => be32 (s.byteAt (a + 3)) (s.byteAt (a + 2)) (s.byteAt (a + 1)) (s.byteAt a)

/-- The bytes that an n-byte write stores, lowest offset first (20_memory.md R54). -/
def laneBytes (width : Width) (v : Word) : List Byte :=
  (List.range (widthBytes width)).map (fun k => v.extractLsb' (8 * k) 8)

/-- The low bytes of a value, as many as an access has (20_memory.md R54; log 8). -/
def truncateTo (width : Width) (v : Word) : Word :=
  match width with
  | .w8 => (v.setWidth 8).setWidth 32
  | .w16 => (v.setWidth 16).setWidth 32
  | .w32 => v

end Sys2Proof.Machine
end

