-- ==== Sys2Proof/Machine/Bus.lean ====
section
/-! DEFINITION. The window as the host sees it (20_memory.md): which accesses are legal, what a read returns, what a
write does, with the rules of accesses while BUSY = 1 and of reset (70_reset_and_hazards.md). -/

namespace Sys2Proof.Machine

/-- The window offset of a bus address, none outside the window, where an access does not reach the FBC
(20_memory.md R51; log 11). -/
def windowOffset (addr : Nat) : Option (BitVec 12) :=
  if Config.base ≤ addr ∧ addr < Config.base + Config.windowBytes then some (BitVec.ofNat 12 (addr - Config.base))
  else none

/-- The host's access at a bus address, put behind those it made before if it reaches the FBC (20_memory.md R51, R59). -/
def State.hostAccess (s : State) (addr : Nat) (access : BitVec 12 → HostEvent) : State :=
  match windowOffset addr with
  | some off => { s with pending := s.pending ++ [access off] }
  | none => s

/-- Whether an offset lies in a buffer of the window (20_memory.md R50). -/
def inBuffer (a : Nat) : Bool :=
  (keyOff ≤ a && a < keyOff + Config.keyBytes) || (ibufOff ≤ a && a < ibufOff + Config.ibufBytes)
    || (obufOff ≤ a && a < obufOff + Config.obufBytes)

/-- Whether the host may write the buffer at an offset: KEY and IBUF (20_memory.md R50). -/
def hostWritable (a : Nat) : Bool :=
  (keyOff ≤ a && a < keyOff + Config.keyBytes) || (ibufOff ≤ a && a < ibufOff + Config.ibufBytes)

/-- An access that is no BusError: in the register region a 32-bit one, elsewhere of any width, and aligned to its
width (20_memory.md R52, R53). -/
def legalAccess (width : Width) (off : BitVec 12) : Bool :=
  (width == .w32 || 0x100 ≤ off.toNat) && off.toNat % widthBytes width == 0

/-- A register's value, 0 for CMD and for the reserved offsets (10_state.md R21 to R31, 20_memory.md R55, R56). -/
def State.readRegister (s : State) (a : Nat) : Word :=
  match a with
  | 0x000 => Config.idValue
  | 0x008 => s.statusWord
  | 0x00C => s.keyLen.setWidth 32
  | 0x010 => s.inLen.setWidth 32
  | 0x014 => s.outLen.setWidth 32
  | 0x018 => s.time
  | 0x01C => s.ctr.setWidth 32
  | 0x020 => s.ivL
  | 0x024 => s.ivR
  | 0x028 => s.chainL
  | 0x02C => s.chainR
  | 0x030 => s.blkL
  | 0x034 => s.blkR
  | _ => 0#32

/-- A legal read's value while BUSY = 0: a register, buffer bytes, or 0 where the window is reserved
(20_memory.md R54, R55, R56). -/
def State.readValue (s : State) (width : Width) (off : BitVec 12) : Word :=
  let a := off.toNat
  if a < 0x100 then s.readRegister a else if inBuffer a then s.readLanes width a else 0#32

/-- Command issue: the word is latched, so BUSY is 1, and the OPEN latency is drawn (30_encoding.md R80; log 6). -/
def State.issue (s : State) (v : Word) : State :=
  { s with latched := some v, wait := Config.latency s.draws, draws := s.draws + 1 }

/-- A legal write to the register region while BUSY = 0; a write to a read-only register or a reserved offset is
ignored (10_state.md R21 to R31, 20_memory.md R55, R56). -/
def State.writeRegister (s : State) (a : Nat) (v : Word) : State :=
  match a with
  | 0x004 => s.issue v
  | 0x008 => s.writeStatus v
  | 0x00C => { s with keyLen := v.extractLsb' 0 7 }
  | 0x010 => { s with inLen := v.extractLsb' 0 12 }
  | 0x018 => { s with time := v }
  | 0x020 => { s with ivL := v }
  | 0x024 => { s with ivR := v }
  | 0x030 => { s with blkL := v }
  | 0x034 => { s with blkR := v }
  | _ => s

/-- A legal write while BUSY = 0: a register, KEY or IBUF, and nothing elsewhere (20_memory.md R54, R55, R56). -/
def State.writeValue (s : State) (width : Width) (off : BitVec 12) (v : Word) : State :=
  let a := off.toNat
  if a < 0x100 then s.writeRegister a v
  else if hostWritable a then { s with mem := s.mem.writeBytes a (laneBytes width v) }
  else s

/-- CMD's offset (10_state.md, register map). -/
def cmdOff : BitVec 12 := 0x004#12

/-- STATUS's offset (10_state.md, register map). -/
def statusOff : BitVec 12 := 0x008#12

/-- ID's offset (10_state.md, register map). -/
def idOff : BitVec 12 := 0x000#12

/-- What an answered access leaves: its reply after those before it (log 7). -/
def State.reply (s : State) (r : Reply) : State := { s with replies := s.replies ++ [r] }

/-- A completed write to CMD. -/
def Reply.isCommand : Reply → Bool
  | .data _ _ _ => false
  | .written _ off _ => off == cmdOff

/-- A completed read of STATUS that returned BUSY = 0 (10_state.md R23: bit 0). -/
def Reply.isIdlePoll : Reply → Bool
  | .data _ off v => off == statusOff && !v[0]
  | .written _ _ _ => false

/-- Whether a read of STATUS returning BUSY = 0 follows the last write to CMD, if there was one: then one follows each
(70_reset_and_hazards.md R239). -/
def commandsPolled : List Reply → Bool
  | [] => true
  | r :: later => (!r.isCommand || later.any Reply.isIdlePoll) && commandsPolled later

/-- A legal read: while BUSY = 1 one of any offset but ID and STATUS returns a fresh free value
(70_reset_and_hazards.md R233; log 8). -/
def State.serveRead (s : State) (width : Width) (off : BitVec 12) : State :=
  if s.busy && off != idOff && off != statusOff then
    { s with draws := s.draws + 1 }.reply (.data width off (truncateTo width (Config.busyRead s.draws)))
  else s.reply (.data width off (s.readValue width off))

/-- A legal write: while BUSY = 1 one of any offset but STATUS is dropped (70_reset_and_hazards.md R232). -/
def State.serveWrite (s : State) (width : Width) (off : BitVec 12) (v : Word) : State :=
  if s.busy && off != statusOff then s.dropWrite.reply (.written width off v)
  else (s.writeValue width off v).reply (.written width off v)

/-- A reset: every item of state takes its reset value, a command in flight is abandoned and unwritten buffer bytes
are free anew (70_reset_and_hazards.md R230, R231; log 13). What is outside the FBC stays. -/
def State.afterReset (s : State) : State :=
  { State.reset with pending := s.pending, replies := s.replies, draws := s.draws, resets := s.resets + 1 }

/-- What one event from outside does (20_memory.md R57, R59; log 9). -/
def serve (e : HostEvent) (s : State) : Host.Outcome State Fault Refusal :=
  match e with
  | .read width off => if legalAccess width off then .next (s.serveRead width off) else .fault (.busError e)
  | .write width off v => if legalAccess width off then .next (s.serveWrite width off v) else .fault (.busError e)
  | .reset => .next s.afterReset

/-- The outside's turn: its oldest event is served, and with none the FBC stays as it is (00_scope.md R12,
20_memory.md R59; log 7). -/
def hostTurn (s : State) : Host.Outcome State Fault Refusal :=
  match s.pending with
  | [] => .next s
  | e :: rest => serve e { s with pending := rest }

end Sys2Proof.Machine
end

