-- ==== Sys2Proof/Machine/Cipher.lean ====
section
/-! DEFINITION. The block cipher core (41_block_cipher.md): the round function, encipher and decipher, the key
schedule, and the commands NOP, KEY_INIT, ENC_BLK and DEC_BLK. -/

namespace Sys2Proof.Machine

/-- The entry of an S-box that a byte indexes. -/
def sboxAt (t : Vector Word 256) (b : Byte) : Word := t.get b.toFin

/-- The F-function (41_block_cipher.md R100). -/
def feistelF (s : Vector (Vector Word 256) 4) (x : Word) : Word :=
  ((sboxAt s[0] (x.extractLsb' 24 8) + sboxAt s[1] (x.extractLsb' 16 8)) ^^^ sboxAt s[2] (x.extractLsb' 8 8))
    + sboxAt s[3] (x.extractLsb' 0 8)

/-- One round with a subkey, the swap included (41_block_cipher.md R101). -/
def feistelRound (s : Vector (Vector Word 256) 4) (b : Block) (k : Word) : Block :=
  { l := b.r ^^^ feistelF s (b.l ^^^ k), r := b.l ^^^ k }

/-- The network: a round for each subkey of `ks` in order, the last swap undone, then the right word with `kR` and
the left word with `kL` (41_block_cipher.md R101, R102). -/
def feistel (s : Vector (Vector Word 256) 4) (ks : List Word) (kR kL : Word) (b : Block) : Block :=
  let x := ks.foldl (feistelRound s) b
  { l := x.r ^^^ kL, r := x.l ^^^ kR }

/-- encipher (41_block_cipher.md R101). -/
def encipher (sc : Schedule) (b : Block) : Block := feistel sc.s (sc.p.toList.take 16) sc.p[16] sc.p[17] b

/-- decipher: the subkeys in reverse order (41_block_cipher.md R102). -/
def decipher (sc : Schedule) (b : Block) : Block :=
  feistel sc.s (sc.p.toList.drop 2).reverse sc.p[1] sc.p[0] b

/-- Byte `j` of the key bytes cycled (41_block_cipher.md R105). -/
def cycled (k : List Byte) (j : Nat) : Byte := k.getD (j % k.length) 0#8

/-- The 32-bit chunk for subkey `i` (41_block_cipher.md R105). -/
def keyChunk (k : List Byte) (i : Nat) : Word :=
  be32 (cycled k (4 * i)) (cycled k (4 * i + 1)) (cycled k (4 * i + 2)) (cycled k (4 * i + 3))

/-- Subkey mixing (41_block_cipher.md R105). -/
def mixSubkeys (init : Schedule) (k : List Byte) : Schedule :=
  { init with p := init.p.mapIdx (fun i w => w ^^^ keyChunk k i) }

/-- One encipherment of the fill that overwrites P[2j] and P[2j+1] (41_block_cipher.md R106). -/
def fillSubkeys (x : Schedule × Block) (j : Fin 9) : Schedule × Block :=
  let b := encipher x.1 x.2
  ({ x.1 with p := (x.1.p.set (2 * j.val) b.l).set (2 * j.val + 1) b.r }, b)

/-- One encipherment of the fill that overwrites S[k][2j] and S[k][2j+1] (41_block_cipher.md R106). -/
def fillTable (k : Fin 4) (x : Schedule × Block) (j : Fin 128) : Schedule × Block :=
  let b := encipher x.1 x.2
  ({ x.1 with s := x.1.s.set k.val ((x.1.s[k.val].set (2 * j.val) b.l).set (2 * j.val + 1) b.r) }, b)

/-- Schedule fill (41_block_cipher.md R106). -/
def fillSchedule (mixed : Schedule) : Schedule :=
  let afterP := (List.finRange 9).foldl fillSubkeys (mixed, { l := 0#32, r := 0#32 })
  ((List.finRange 4).foldl (fun x k => (List.finRange 128).foldl (fillTable k) x) afterP).1

/-- The schedule of a key, from given initial tables (41_block_cipher.md R105, R106). -/
def schedule (init : Schedule) (k : List Byte) : Schedule := fillSchedule (mixSubkeys init k)

/-- The cap that CAP56 selects (41_block_cipher.md R104). -/
def keyCap (cap56 : Bool) : Nat := if cap56 then Config.capStandard else Config.capLegacy

/-- The effective key, KEY[0..n) with n = min(KEYLEN, cap) (41_block_cipher.md R104). -/
def State.effectiveKey (s : State) (cap56 : Bool) : List Byte := s.key (min s.keyLen.toNat (keyCap cap56))

/-- NOP (41_block_cipher.md R114). -/
def execNop (s : State) : Host.Outcome State Fault Refusal := complete s

/-- KEY_INIT (41_block_cipher.md R110): the schedule is computed in full before it is stored (R111). -/
def execKeyInit (cap56 : Bool) (s : State) : Host.Outcome State Fault Refusal :=
  if s.keyLen.toNat = 0 ∨ s.keyLen.toNat > Config.keyBytes then raise .keyLen s
  else complete { s with sched := schedule initTables (s.effectiveKey cap56), keyValid := true }

/-- What ENC_BLK and DEC_BLK share: the key check, and the block in BLK replaced (41_block_cipher.md R112, R113). -/
def blockCommand (f : Schedule → Block → Block) (s : State) : Host.Outcome State Fault Refusal :=
  if s.keyValid then
    let b := f s.sched s.blk
    complete { s with blkL := b.l, blkR := b.r }
  else raise .noKey s

/-- ENC_BLK (41_block_cipher.md R112). -/
def execEncBlk (s : State) : Host.Outcome State Fault Refusal := blockCommand encipher s

/-- DEC_BLK (41_block_cipher.md R113). -/
def execDecBlk (s : State) : Host.Outcome State Fault Refusal := blockCommand decipher s

end Sys2Proof.Machine
end

