-- ==== Sys2Proof/Machine/Modes.lean ====
section
/-! DEFINITION. ECB, the CBC mode engine, the IV generator and the buffer transfer (43_modes_and_iv.md). -/

namespace Sys2Proof.Machine

/-- INLEN exceeds the buffer (60_exceptions.md R203). -/
def State.inLenBad (s : State) : Bool := s.inLen.toNat > Config.ibufBytes

/-- IBUF[0..INLEN) (10_state.md R25). -/
def State.input (s : State) : List Byte := s.ibuf s.inLen.toNat

/-- The checks that the four block-mode commands share, in the order of 60_exceptions.md R204, and then the body. -/
def withKeyAndInput (s : State) (body : Host.Outcome State Fault Refusal) : Host.Outcome State Fault Refusal :=
  if !s.keyValid then raiseNoOutput .noKey s
  else if s.inLenBad then raiseNoOutput .inLen s
  else body

/-- ECB over a byte string: each block of the zero-padded input on its own (43_modes_and_iv.md R145, R146). -/
def ecb (f : Block → Block) (src : List Byte) : List Byte := bytesOf ((blocks (zeroPad src)).map f)

/-- ECB_ENC (43_modes_and_iv.md R145). -/
def execEcbEnc (s : State) : Host.Outcome State Fault Refusal :=
  withKeyAndInput s (complete (s.putOutput (ecb (encipher s.sched) s.input)))

/-- ECB_DEC (43_modes_and_iv.md R146). -/
def execEcbDec (s : State) : Host.Outcome State Fault Refusal :=
  withKeyAndInput s (complete (s.putOutput (ecb (decipher s.sched) s.input)))

/-- The initial chain value (43_modes_and_iv.md R148). -/
def State.chainStart (s : State) : ChainStart → Block
  | .zero => { l := 0#32, r := 0#32 }
  | .iv => s.iv
  | .cont => s.chain

/-- CBC encryption of blocks from a chain value: the ciphertext blocks and the last chain value
(43_modes_and_iv.md R150). -/
def cbcEncrypt (f : Block → Block) (c : Block) : List Block → List Block × Block
  | [] => ([], c)
  | b :: bs =>
    let e := f (blockXor b c)
    let rest := cbcEncrypt f e bs
    (e :: rest.1, rest.2)

/-- CBC decryption of blocks from a chain value: the plaintext blocks and the last chain value
(43_modes_and_iv.md R151). -/
def cbcDecrypt (f : Block → Block) (c : Block) : List Block → List Block × Block
  | [] => ([], c)
  | b :: bs =>
    let rest := cbcDecrypt f b bs
    (blockXor (f b) c :: rest.1, rest.2)

/-- CHAIN_L and CHAIN_R written (10_state.md R30). -/
def State.putChain (s : State) (c : Block) : State := { s with chainL := c.l, chainR := c.r }

/-- What CBC_ENC enciphers: with PIV = 1 the IV block stands in front of the input (43_modes_and_iv.md R150). -/
def State.cbcSource (s : State) (piv : Bool) : List Byte :=
  if piv then blockBytes s.iv ++ s.input else s.input

/-- CBC_ENC (43_modes_and_iv.md R150). -/
def execCbcEnc (chs : ChainStart) (piv : Bool) (s : State) : Host.Outcome State Fault Refusal :=
  withKeyAndInput s
    (let out := cbcEncrypt (encipher s.sched) (s.chainStart chs) (blocks (zeroPad (s.cbcSource piv)))
     complete ((s.putOutput (bytesOf out.1)).putChain out.2))

/-- The bytes that DROP = 1 discards, none if there are none (43_modes_and_iv.md R151). -/
def dropCount (drop : Bool) (m : Nat) : Nat := if drop then min 8 m else 0

/-- CBC_DEC (43_modes_and_iv.md R151). -/
def execCbcDec (chs : ChainStart) (drop : Bool) (s : State) : Host.Outcome State Fault Refusal :=
  withKeyAndInput s
    (let out := cbcDecrypt (decipher s.sched) (s.chainStart chs) (blocks (zeroPad s.input))
     let plain := bytesOf out.1
     complete ((s.putOutput (plain.drop (dropCount drop plain.length))).putChain out.2))

/-- σ as IV_GEN draws from it: seeded from TIME at the first IV_GEN after reset (43_modes_and_iv.md R153). -/
def State.seededSigma (s : State) : Nat := if s.seeded then s.sigma else Config.prngSeed s.time

/-- The IV counter after one IV_GEN (43_modes_and_iv.md R153). -/
def nextCtr (ctr : BitVec 16) : BitVec 16 := BitVec.ofNat 16 ((ctr.toNat + 1) % Config.ctrMod)

/-- IV_GEN (43_modes_and_iv.md R153). -/
def execIvGen (s : State) : Host.Outcome State Fault Refusal :=
  let drawn := Config.prngNext s.seededSigma
  complete { s with
    sigma := drawn.1
    seeded := true
    ivL := s.time
    ivR := drawn.2 + s.ctr.setWidth 32
    ctr := nextCtr s.ctr }

/-- XFER (43_modes_and_iv.md R156). -/
def execXfer (s : State) : Host.Outcome State Fault Refusal :=
  if s.outLen.toNat > Config.ibufBytes then raise .overflow s
  else complete { s with mem := s.mem.writeBytes ibufOff (s.obuf s.outLen.toNat), inLen := s.outLen }

end Sys2Proof.Machine
end

