-- ==== Sys2Proof/Machine/Base64.lean ====
section
/-! DEFINITION. The base64 encoder and decoder, standard and legacy (44_base64.md). -/

namespace Sys2Proof.Machine

/-- The pad character '=' (44_base64.md R170). -/
def padChar : Byte := 0x3D#8

/-- The line feed that WRAP inserts (44_base64.md R173). -/
def lineFeed : Byte := 0x0A#8

/-- The standard alphabet (44_base64.md R170). -/
def stdChar (v : BitVec 6) : Byte :=
  let n := v.toNat
  if n < 26 then BitVec.ofNat 8 (0x41 + n)
  else if n < 52 then BitVec.ofNat 8 (0x61 + (n - 26))
  else if n < 62 then BitVec.ofNat 8 (0x30 + (n - 52))
  else if n = 62 then 0x2B#8
  else 0x2F#8

/-- std_val where the byte is one of the 64 of the standard alphabet (44_base64.md R170). -/
def stdVal (c : Byte) : Option (BitVec 6) :=
  let n := c.toNat
  if 0x41 ≤ n ∧ n ≤ 0x5A then some (BitVec.ofNat 6 (n - 0x41))
  else if 0x61 ≤ n ∧ n ≤ 0x7A then some (BitVec.ofNat 6 (n - 0x61 + 26))
  else if 0x30 ≤ n ∧ n ≤ 0x39 then some (BitVec.ofNat 6 (n - 0x30 + 52))
  else if n = 0x2B then some 62#6
  else if n = 0x2F then some 63#6
  else none

/-- Three bytes as a 24-bit value, the first in bits 23:16 (44_base64.md R171). -/
def be24 (b0 b1 b2 : Byte) : BitVec 24 := b0.setWidth 24 <<< 16 ||| b1.setWidth 24 <<< 8 ||| b2.setWidth 24

/-- The four characters of a 24-bit value, most significant first (44_base64.md R171). -/
def stdQuad (w : BitVec 24) : List Byte :=
  [stdChar (w.extractLsb' 18 6), stdChar (w.extractLsb' 12 6), stdChar (w.extractLsb' 6 6),
    stdChar (w.extractLsb' 0 6)]

/-- Standard encoding, 3 bytes to 4 characters, the last group padded with '=' (44_base64.md R171). -/
def b64 : List Byte → List Byte
  | t0 :: t1 :: t2 :: rest => stdQuad (be24 t0 t1 t2) ++ b64 rest
  | [t0, t1] => (stdQuad (be24 t0 t1 0#8)).take 3 ++ [padChar]
  | [t0] => (stdQuad (be24 t0 0#8 0#8)).take 2 ++ [padChar, padChar]
  | [] => []

/-- A line feed wherever `room` characters have been laid on a line and more follow (44_base64.md R173). -/
def wrapFrom : Nat → List Byte → List Byte
  | _, [] => []
  | 0, c :: cs => lineFeed :: c :: wrapFrom (Config.b64Line - 1) cs
  | room + 1, c :: cs => c :: wrapFrom room cs

/-- wrap76 (44_base64.md R173). -/
def wrap76 (e : List Byte) : List Byte := wrapFrom Config.b64Line e

/-- A character that decoding keeps: one of the alphabet or '=' (44_base64.md R174). -/
def significant (c : Byte) : Bool := (stdVal c).isSome || c == padChar

/-- A trailing partial group completed with '=', which lenient decoding does to 2 or 3 characters; none where the
length is an error (44_base64.md R174). -/
def completeGroups (strict : Bool) (sig : List Byte) : Option (List Byte) :=
  match sig.length % 4 with
  | 0 => some sig
  | 1 => none
  | n => if strict then none else some (sig ++ List.replicate (4 - n) padChar)

/-- std_val of a significant character, '=' counting as 0 (44_base64.md R174). -/
def valOrZero (c : Byte) : BitVec 6 := (stdVal c).getD 0#6

/-- The 24-bit value of a group of four (44_base64.md R174). -/
def groupWord (c0 c1 c2 c3 : Byte) : BitVec 24 :=
  (valOrZero c0).setWidth 24 <<< 18 + (valOrZero c1).setWidth 24 <<< 12 + (valOrZero c2).setWidth 24 <<< 6
    + (valOrZero c3).setWidth 24

/-- The three bytes of a 24-bit value, the most significant first (44_base64.md R174). -/
def unbe24 (w : BitVec 24) : List Byte := [w.extractLsb' 16 8, w.extractLsb' 8 8, w.extractLsb' 0 8]

/-- How many bytes a group of four holds, by the positions of '=' in it; none is B64FORMAT (44_base64.md R174). -/
def groupCount (c0 c1 c2 c3 : Byte) : Option Nat :=
  if c0 = padChar ∨ c1 = padChar then none
  else if c2 = padChar then (if c3 = padChar then some 1 else none)
  else if c3 = padChar then some 2
  else some 3

/-- The groups of four, a padded one only at the end; none is B64FORMAT (44_base64.md R174). -/
def decodeGroups : List Byte → Option (List Byte)
  | c0 :: c1 :: c2 :: c3 :: rest =>
    match groupCount c0 c1 c2 c3 with
    | none => none
    | some q =>
      if q < 3 ∧ rest ≠ [] then none
      else (decodeGroups rest).map (fun out => (unbe24 (groupWord c0 c1 c2 c3)).take q ++ out)
  | _ => some []

/-- Standard decoding; none is B64FORMAT (44_base64.md R174). -/
def b64dec (t : List Byte) (strict : Bool) : Option (List Byte) :=
  if strict && !t.all significant then none
  else (completeGroups strict (t.filter significant)).bind decodeGroups

/-- The checks and the output that the encoding commands share (44_base64.md R172, R182). -/
def encodeCommand (f : List Byte → List Byte) (s : State) : Host.Outcome State Fault Refusal :=
  if s.inLenBad then raiseNoOutput .inLen s
  else
    let out := f s.input
    if out.length > Config.obufBytes then raiseNoOutput .overflow s else complete (s.putOutput out)

/-- B64_ENC (44_base64.md R172). -/
def execB64Enc (wrap : Bool) (s : State) : Host.Outcome State Fault Refusal :=
  encodeCommand (fun src => if wrap then wrap76 (b64 src) else b64 src) s

/-- B64_DEC (44_base64.md R175). -/
def execB64Dec (strict : Bool) (s : State) : Host.Outcome State Fault Refusal :=
  if s.inLenBad then raiseNoOutput .inLen s
  else match b64dec s.input strict with
    | none => raiseNoOutput .b64Format s
    | some out => complete (s.putOutput out)

/-- The legacy alphabet (44_base64.md R180). -/
def legChar (v : BitVec 6) : Byte :=
  let n := v.toNat
  if n < 2 then BitVec.ofNat 8 (0x2E + n)
  else if n < 12 then BitVec.ofNat 8 (0x30 + (n - 2))
  else if n < 38 then BitVec.ofNat 8 (0x61 + (n - 12))
  else BitVec.ofNat 8 (0x41 + (n - 38))

/-- leg_val: a byte's position in the legacy alphabet, 0 where it is not in it (44_base64.md R180). -/
def legVal (c : Byte) : BitVec 6 :=
  let n := c.toNat
  if 0x2E ≤ n ∧ n ≤ 0x2F then BitVec.ofNat 6 (n - 0x2E)
  else if 0x30 ≤ n ∧ n ≤ 0x39 then BitVec.ofNat 6 (n - 0x30 + 2)
  else if 0x61 ≤ n ∧ n ≤ 0x7A then BitVec.ofNat 6 (n - 0x61 + 12)
  else if 0x41 ≤ n ∧ n ≤ 0x5A then BitVec.ofNat 6 (n - 0x41 + 38)
  else 0#6

/-- The six characters of a word, its least significant 6 bits first (44_base64.md R181). -/
def legWord (w : Word) : List Byte :=
  (List.range 6).map (fun i => legChar ((w >>> (6 * i)).setWidth 6))

/-- The 12 characters of a block, the right word first (44_base64.md R181). -/
def legEncBlock (b : Block) : List Byte := legWord b.r ++ legWord b.l

/-- leg_enc: the string of 44_base64.md R182 (R185). -/
def legEnc (src : List Byte) : List Byte := (blocks (zeroPad src)).flatMap legEncBlock

/-- Six values as a word, the sum of v_i << 6i mod 2^32 (44_base64.md R183). -/
def legWordOf (v0 v1 v2 v3 v4 v5 : BitVec 6) : Word :=
  v0.setWidth 32 + v1.setWidth 32 <<< 6 + v2.setWidth 32 <<< 12 + v3.setWidth 32 <<< 18 + v4.setWidth 32 <<< 24
    + v5.setWidth 32 <<< 30

/-- Values in sixes as words (44_base64.md R183). -/
def legWords : List (BitVec 6) → List Word
  | v0 :: v1 :: v2 :: v3 :: v4 :: v5 :: rest => legWordOf v0 v1 v2 v3 v4 v5 :: legWords rest
  | _ => []

/-- Words in pairs as blocks, the right word first (44_base64.md R183). -/
def legBlocks : List Word → List Block
  | r :: l :: rest => { l := l, r := r } :: legBlocks rest
  | _ => []

/-- A partial group of 12 completed with values 0 (44_base64.md R183). -/
def pad12 (v : List (BitVec 6)) : List (BitVec 6) := v ++ List.replicate ((12 - v.length % 12) % 12) 0#6

/-- Legacy decoding, up to the first byte 0x00 (44_base64.md R183). -/
def legDec (t : List Byte) : List Byte :=
  bytesOf (legBlocks (legWords (pad12 ((t.takeWhile (fun c => c != 0x00#8)).map legVal))))

/-- LB64_ENC (44_base64.md R182). -/
def execLb64Enc (s : State) : Host.Outcome State Fault Refusal := encodeCommand legEnc s

/-- LB64_DEC (44_base64.md R184). -/
def execLb64Dec (s : State) : Host.Outcome State Fault Refusal :=
  if s.inLenBad then raiseNoOutput .inLen s else complete (s.putOutput (legDec s.input))

end Sys2Proof.Machine
end

