-- ==== Sys2Proof/Machine/Dispatch.lean ====
section
/-! DEFINITION. Which meaning each command has. -/

namespace Sys2Proof.Machine

def exec (i : Instr) (s : State) : Host.Outcome State Fault Refusal :=
  match i with
  | .nop => Sys2Proof.Machine.execNop s
  | .keyInit cap56 => Sys2Proof.Machine.execKeyInit cap56 s
  | .encBlk => Sys2Proof.Machine.execEncBlk s
  | .decBlk => Sys2Proof.Machine.execDecBlk s
  | .ecbEnc => Sys2Proof.Machine.execEcbEnc s
  | .ecbDec => Sys2Proof.Machine.execEcbDec s
  | .cbcEnc chs piv => Sys2Proof.Machine.execCbcEnc chs piv s
  | .cbcDec chs drop => Sys2Proof.Machine.execCbcDec chs drop s
  | .ivGen => Sys2Proof.Machine.execIvGen s
  | .b64Enc wrap => Sys2Proof.Machine.execB64Enc wrap s
  | .b64Dec strict => Sys2Proof.Machine.execB64Dec strict s
  | .lb64Enc => Sys2Proof.Machine.execLb64Enc s
  | .lb64Dec => Sys2Proof.Machine.execLb64Dec s
  | .xfer => Sys2Proof.Machine.execXfer s

end Sys2Proof.Machine
end

