-- ==== Sys2Proof/Machine/Perform.lean ====
section
/-! DEFINITION. The core's atomic step and whose turn it is (30_encoding.md R80, R82; 00_scope.md R11, R12). -/

namespace Sys2Proof.Machine

/-- perform(decode(v)): an ILLEGAL word raises ILLEGAL (30_encoding.md R82, R85). -/
def perform (v : Word) (s : State) : Host.Outcome State Fault Refusal :=
  match decode v with
  | .ok i => exec i s
  | .error _ => raise .illegal s

/-- Whose turn it is. With a command in flight whose latency is over, the core performs it. Else the outside has its
turn, which takes one step off the latency of a command in flight (30_encoding.md R80, 70_reset_and_hazards.md R238;
log 6). -/
def turn (s : State) : Host.Outcome State Fault Refusal :=
  match s.latched with
  | none => hostTurn s
  | some v =>
    match s.wait with
    | 0 => perform v s
    | n + 1 => hostTurn { s with wait := n }

/-- The state with a command word in flight and its latency over. -/
def State.latchCommand (s : State) (v : Word) : State := { s with latched := some v, wait := 0 }

end Sys2Proof.Machine
end

