-- ==== Sys2Proof/Machine/Step.lean ====
section
/-! DEFINITION. One step, and how an instruction comes to be the one that the next step runs. -/

namespace Sys2Proof.Machine

/-- One step: the core's atomic step or the outside's turn (00_scope.md R12). -/
def step (s : State) : Host.Outcome State Fault Refusal := turn s

/-- `s` with the instruction of `nbits` bits and value `w` in flight, so that the next step performs it: the FBC has
no program counter and takes a command from its latch (10_state.md R20, 30_encoding.md R80; log 7). -/
def State.withFetchWord (s : State) (nbits w : Nat) : State := s.latchCommand (BitVec.ofNat 32 (w % 2 ^ nbits))

end Sys2Proof.Machine
end

