-- ==== Sys2Proof/Safety.lean ====
section
/-! DEFINITION. The invariant of the machine, and what a safe step is, in the terms that claims use. -/

namespace Sys2Proof.Machine

/-- What holds of every state that a run from reset reaches. -/
structure State.Inv (s : State) : Prop where
  /-- CTR never holds 65534 or 65535 (10_state.md R28). -/
  ctr_lt : s.ctr.toNat < 65534
  /-- OUTLEN is at most 2048 (10_state.md R26). -/
  outLen_le : s.outLen.toNat ≤ 2048
  /-- The memory is in its canonical form. -/
  mem_wf : s.mem.wf
  /-- Only bytes of KEY, IBUF and OBUF are stored (20_memory.md R50). -/
  mem_inBuffer : ∀ c ∈ s.mem, inBuffer c.1 = true
  /-- While BUSY = 1 no read of STATUS has returned BUSY = 0 since the last write to CMD (10_state.md R23). -/
  busy_unpolled : s.busy = true → commandsPolled s.replies = false

/-- The buffer commands: those that write OBUF and OUTLEN (10_state.md R26). -/
def writesOutput : Instr → Bool
  | .ecbEnc | .ecbDec | .cbcEnc _ _ | .cbcDec _ _ | .b64Enc _ | .b64Dec _ | .lb64Enc | .lb64Dec => true
  | .nop | .keyInit _ | .encBlk | .decBlk | .ivGen | .xfer => false

/-- The commands that need a key (60_exceptions.md R202). -/
def needsKey : Instr → Bool
  | .encBlk | .decBlk | .ecbEnc | .ecbDec | .cbcEnc _ _ | .cbcDec _ _ => true
  | .nop | .keyInit _ | .ivGen | .b64Enc _ | .b64Dec _ | .lb64Enc | .lb64Dec | .xfer => false

/-- The buffer offsets that a command reads when none of its checks fails (30_encoding.md R86). -/
def readOffsets (i : Instr) (s : State) : List Nat :=
  let input := (List.range s.inLen.toNat).map (ibufOff + ·)
  match i with
  | .nop => []
  | .keyInit cap56 => (List.range (min s.keyLen.toNat (keyCap cap56))).map (keyOff + ·)
  | .encBlk => []
  | .decBlk => []
  | .ecbEnc => input
  | .ecbDec => input
  | .cbcEnc _ _ => input
  | .cbcDec _ _ => input
  | .ivGen => []
  | .b64Enc _ => input
  | .b64Dec _ => input
  | .lb64Enc => input
  | .lb64Dec => input
  | .xfer => (List.range s.outLen.toNat).map (obufOff + ·)

/-- Every byte that the command reads has been written since reset: 70_reset_and_hazards.md R236 asks this of a
program (log 1). -/
def readsWritten (i : Instr) (s : State) : Prop := ∀ a ∈ readOffsets i s, (s.mem.read a).isSome

/-- A host event that keeps 70_reset_and_hazards.md R237(a): while BUSY = 1 the host reads ID or STATUS, or writes
STATUS, and nothing else. -/
def waitsForBusy (e : HostEvent) (s : State) : Prop :=
  match e with
  | .read _ off => s.busy = true → off = idOff ∨ off = statusOff
  | .write _ off _ => s.busy = true → off = statusOff
  | .reset => True

/-- A run has ended (70_reset_and_hazards.md R239): the last access has completed, and a read of STATUS returning
BUSY = 0 follows the last write to CMD, if there was one. Under the invariant no command is then in flight. -/
def runEnded (s : State) : Prop := s.pending = [] ∧ commandsPolled s.replies = true

end Sys2Proof.Machine
end

