-- ==== Sys2Proof/Certificates/Slice0/Obligations.lean ====
section
/-! DEFINITION. The statements about the model, and before them the readings of the state that they are made in. Each
docstring names the rule of the spec that the statement formalises. -/

namespace Sys2Proof.Reading

open Sys2Proof.Machine

/-- be32 of the four bytes from index `a` on (00_scope.md R9). -/
def wordAt (f : Nat → Byte) (a : Nat) : Word := be32 (f a) (f (a + 1)) (f (a + 2)) (f (a + 3))

/-- The block of the eight bytes from index `a` on (10_state.md R33). -/
def blockAt (f : Nat → Byte) (a : Nat) : Block := { l := wordAt f a, r := wordAt f (a + 4) }

/-- Byte `i` of a byte string, 0 beyond its end, which is the zero padding of 43_modes_and_iv.md R140. -/
def padded (src : List Byte) (i : Nat) : Byte := src.getD i 0#8

/-- Byte `i` of IBUF[0..INLEN), zero padded (43_modes_and_iv.md R140). -/
def inputAt (s : State) (i : Nat) : Byte := if i < s.inLen.toNat then s.byteAt (ibufOff + i) else 0#8

/-- Byte `i` of what CBC_ENC enciphers: with PIV = 1 the IV's eight bytes come first (43_modes_and_iv.md R150). -/
def cbcInputAt (s : State) (piv : Bool) (i : Nat) : Byte :=
  if piv then (if i < 8 then padded (unbe32 s.ivL ++ unbe32 s.ivR) i else inputAt s (i - 8)) else inputAt s i

/-- Byte `i` of OBUF. -/
def outputAt (s : State) (i : Nat) : Byte := s.byteAt (obufOff + i)

/-- `t` is `s` after a successful command that wrote OBUF[0..n) and OUTLEN = n, nothing else having changed: every
register but RESULT, BUSY and OUTLEN is that of `s`, and so is every byte outside OBUF[0..n). -/
def outputFrame (s t : State) (n : Nat) : Prop :=
  t = { s with result := .ok, latched := none, outLen := t.outLen, mem := t.mem } ∧ t.outLen.toNat = n ∧
    ∀ a, (a < obufOff ∨ obufOff + n ≤ a) → t.byteAt a = s.byteAt a

/-- What command `i` outputs from `s` is what it outputs from `a` and then what `cont` outputs from `b`, and the CHAIN
that it leaves is the one of `cont`, when `b` has the CHAIN that `i` leaves from `a` (43_modes_and_iv.md R152(c)). -/
def splitsInto (s : State) (i : Instr) (a : State) (cont : Instr) (b : State) : Prop :=
  ∃ whole first, exec i s = .next whole ∧ exec i a = .next first ∧
    (b.chainL = first.chainL → b.chainR = first.chainR →
      ∃ second, exec cont b = .next second ∧
        whole.outLen.toNat = first.outLen.toNat + second.outLen.toNat ∧
        (∀ k < first.outLen.toNat, outputAt whole k = outputAt first k) ∧
        (∀ k < second.outLen.toNat, outputAt whole (first.outLen.toNat + k) = outputAt second k) ∧
        whole.chainL = second.chainL ∧ whole.chainR = second.chainR)

/-- The block xor of 43_modes_and_iv.md R150, word by word. -/
def xorBlocks (a b : Block) : Block := { l := a.l ^^^ b.l, r := a.r ^^^ b.r }

/-- The chain's start value by CHS (43_modes_and_iv.md R148). -/
def chainStartValue (s : State) : ChainStart → Block
  | .zero => { l := 0#32, r := 0#32 }
  | .iv => { l := s.ivL, r := s.ivR }
  | .cont => { l := s.chainL, r := s.chainR }

/-- Entry `i` of an S-box. -/
def entry (t : Vector Word 256) (i : Nat) : Word := t.toList.getD i 0#32

/-- F by numbers (41_block_cipher.md R100). -/
def fOf (s : Vector (Vector Word 256) 4) (x : Word) : Word :=
  ((entry s[0] (x.toNat / 2 ^ 24) + entry s[1] (x.toNat / 2 ^ 16 % 256)) ^^^ entry s[2] (x.toNat / 2 ^ 8 % 256))
    + entry s[3] (x.toNat % 256)

/-- One turn of the loop of 41_block_cipher.md R101 with subkey `i`: L <- L xor P[i]; R <- R xor F(L); swap. -/
def loopTurn (sc : Schedule) (b : Block) (i : Nat) : Block :=
  let l := b.l ^^^ sc.p.toList.getD i 0#32
  let r := b.r ^^^ fOf sc.s l
  { l := r, r := l }

/-- The loop of 41_block_cipher.md R101. -/
def encipherLoop (sc : Schedule) (b : Block) : Block :=
  let x := (List.range 16).foldl (loopTurn sc) b
  { l := x.r ^^^ sc.p[17], r := x.l ^^^ sc.p[16] }

/-- The loop of 41_block_cipher.md R102: i from 17 down to 2. -/
def decipherLoop (sc : Schedule) (b : Block) : Block :=
  let x := (List.range 16).foldl (fun b i => loopTurn sc b (17 - i)) b
  { l := x.r ^^^ sc.p[0], r := x.l ^^^ sc.p[1] }

/-- The form of 41_block_cipher.md R101 that keeps the halves in place:
L ^= P[0]; R ^= F(L) ^ P[1]; L ^= F(R) ^ P[2]; ...; L ^= F(R) ^ P[16]; R ^= P[17]; return (R, L). -/
def encipherInPlace (sc : Schedule) (b : Block) : Block :=
  let x := (List.range 8).foldl (fun (b : Block) i =>
    let r := b.r ^^^ (fOf sc.s b.l ^^^ sc.p.toList.getD (2 * i + 1) 0#32)
    let l := b.l ^^^ (fOf sc.s r ^^^ sc.p.toList.getD (2 * i + 2) 0#32)
    { l := l, r := r }) { l := b.l ^^^ sc.p[0], r := b.r }
  { l := x.r ^^^ sc.p[17], r := x.l }

/-- The inner loop of 41_block_cipher.md R105 for subkey `i`: data <- (data << 8) or k[j], four times, j cycling. -/
def chunkLoop (k : List Byte) (i : Nat) : Word :=
  (List.range 4).foldl (fun data t => data <<< 8 ||| (k.getD ((4 * i + t) % k.length) 0#8).setWidth 32) 0#32

/-- Word `i` of the schedule in the order of the fill: P[0..18), then S[0], S[1], S[2], S[3] (41_block_cipher.md R106).
-/
def setWord (sc : Schedule) (i : Nat) (w : Word) : Schedule :=
  if i < 18 then { sc with p := sc.p.setIfInBounds i w }
  else { sc with s := sc.s.mapIdx (fun k t => if k = (i - 18) / 256 then t.setIfInBounds ((i - 18) % 256) w else t) }

/-- The n-th of the 521 encipherments of the fill: its output is stored at words 2n and 2n + 1, and is the next one's
input (41_block_cipher.md R106). -/
def fillTurn (x : Schedule × Block) (n : Nat) : Schedule × Block :=
  let b := encipher x.1 x.2
  (setWord (setWord x.1 (2 * n) b.l) (2 * n + 1) b.r, b)

/-- The check values of a table (42_cipher_tables.md R132): its first and last word, the xor of all and their sum. -/
def tableCheck (t : List Word) (first last parity sum : Word) : Prop :=
  t.head? = some first ∧ t.getLast? = some last ∧ t.foldl (· ^^^ ·) 0#32 = parity ∧ t.foldl (· + ·) 0#32 = sum

/-- The code that a command reports: the first error that applies in the order of 60_exceptions.md R204, each raised by
the commands and for the cause of R201. -/
def firstError (i : Instr) (s : State) : ResultCode :=
  if needsKey i && !s.keyValid then .noKey
  else match i with
    | .keyInit _ => if s.keyLen.toNat = 0 ∨ s.keyLen.toNat > 80 then .keyLen else .ok
    | .b64Dec strict =>
      if s.inLen.toNat > 1024 then .inLen
      else if (b64dec (s.input) strict).isNone then .b64Format else .ok
    | .ecbEnc | .ecbDec | .cbcEnc _ _ | .cbcDec _ _ | .b64Enc _ | .lb64Enc | .lb64Dec =>
      if s.inLen.toNat > 1024 then .inLen else .ok
    | .xfer => if s.outLen.toNat > 1024 then .overflow else .ok
    | .nop | .encBlk | .decBlk | .ivGen => .ok

/-- The standard alphabet `A-Za-z0-9+/` in the order of its values (44_base64.md R170). -/
def standardAlphabet : List Byte :=
  "ABCDEFGHIJKLMNOPQRSTUVWXYZabcdefghijklmnopqrstuvwxyz0123456789+/".toList.map (fun c => BitVec.ofNat 8 c.toNat)

/-- The legacy alphabet in the order of its values (44_base64.md R180). -/
def legacyAlphabet : List Byte :=
  "./0123456789abcdefghijklmnopqrstuvwxyzABCDEFGHIJKLMNOPQRSTUVWXYZ".toList.map (fun c => BitVec.ofNat 8 c.toNat)

/-- A byte's position in the legacy alphabet, 0 where it is not in it (44_base64.md R180). -/
def legacyPosition (c : Byte) : Nat := if c ∈ legacyAlphabet then legacyAlphabet.idxOf c else 0

/-- The positions of '=' in a group of four give how many bytes it holds; none is an error (44_base64.md R174). -/
def groupSize (g : Nat → Byte) : Option Nat :=
  if g 0 ≠ 0x3D#8 ∧ g 1 ≠ 0x3D#8 ∧ g 2 ≠ 0x3D#8 ∧ g 3 ≠ 0x3D#8 then some 3
  else if g 0 ≠ 0x3D#8 ∧ g 1 ≠ 0x3D#8 ∧ g 2 ≠ 0x3D#8 ∧ g 3 = 0x3D#8 then some 2
  else if g 0 ≠ 0x3D#8 ∧ g 1 ≠ 0x3D#8 ∧ g 2 = 0x3D#8 ∧ g 3 = 0x3D#8 then some 1
  else none

/-- The 24-bit value of a group: the sum of v_i << (18 - 6i), '=' counting as 0 (44_base64.md R174). -/
def groupValue (g : Nat → Byte) : Nat :=
  ((stdVal (g 0)).getD 0#6).toNat * 2 ^ 18 + ((stdVal (g 1)).getD 0#6).toNat * 2 ^ 12 + ((stdVal (g 2)).getD 0#6).toNat * 2 ^ 6
    + ((stdVal (g 3)).getD 0#6).toNat

/-- The significant characters, completed with '=' to a multiple of 4 (44_base64.md R174). -/
def completed (t : List Byte) : List Byte :=
  let sig := t.filter significant
  sig ++ List.replicate ((4 - sig.length % 4) % 4) 0x3D#8

/-- Two states that no command can tell apart by what 30_encoding.md R86 lists in the column "reads" of `i`. -/
def agreeOnReads (i : Instr) (s t : State) : Prop :=
  let sameInput := s.inLen = t.inLen ∧ ∀ k < s.inLen.toNat, s.byteAt (ibufOff + k) = t.byteAt (ibufOff + k)
  let sameKeyed := s.keyValid = t.keyValid ∧ s.sched = t.sched
  match i with
  | .nop => True
  | .keyInit _ => s.keyLen = t.keyLen ∧ ∀ k < s.keyLen.toNat, s.byteAt (keyOff + k) = t.byteAt (keyOff + k)
  | .encBlk | .decBlk => sameKeyed ∧ s.blkL = t.blkL ∧ s.blkR = t.blkR
  | .ecbEnc | .ecbDec => sameKeyed ∧ sameInput
  | .cbcEnc chs piv => sameKeyed ∧ sameInput ∧ (chs = .iv ∨ piv = true → s.ivL = t.ivL ∧ s.ivR = t.ivR) ∧
      (chs = .cont → s.chainL = t.chainL ∧ s.chainR = t.chainR)
  | .cbcDec chs _ => sameKeyed ∧ sameInput ∧ (chs = .iv → s.ivL = t.ivL ∧ s.ivR = t.ivR) ∧
      (chs = .cont → s.chainL = t.chainL ∧ s.chainR = t.chainR)
  | .ivGen => s.time = t.time ∧ s.ctr = t.ctr ∧ s.sigma = t.sigma ∧ s.seeded = t.seeded
  | .b64Enc _ | .b64Dec _ | .lb64Enc | .lb64Dec => sameInput
  | .xfer => s.outLen = t.outLen ∧ ∀ k < s.outLen.toNat, s.byteAt (obufOff + k) = t.byteAt (obufOff + k)

/-- Two states that agree on what 30_encoding.md R86 lists in the column "writes" of `i`, OBUF and IBUF being written
up to the new OUTLEN and INLEN. -/
def agreeOnWrites (i : Instr) (s t : State) : Prop :=
  let sameOutput := s.outLen = t.outLen ∧ ∀ k < s.outLen.toNat, s.byteAt (obufOff + k) = t.byteAt (obufOff + k)
  match i with
  | .nop => True
  | .keyInit _ => s.sched = t.sched ∧ s.keyValid = t.keyValid
  | .encBlk | .decBlk => s.blkL = t.blkL ∧ s.blkR = t.blkR
  | .ecbEnc | .ecbDec => sameOutput
  | .cbcEnc _ _ | .cbcDec _ _ => sameOutput ∧ s.chainL = t.chainL ∧ s.chainR = t.chainR
  | .ivGen => s.ivL = t.ivL ∧ s.ivR = t.ivR ∧ s.ctr = t.ctr ∧ s.sigma = t.sigma ∧ s.seeded = t.seeded
  | .b64Enc _ | .b64Dec _ | .lb64Enc | .lb64Dec => sameOutput
  | .xfer => s.inLen = t.inLen ∧ ∀ k < s.inLen.toNat, s.byteAt (ibufOff + k) = t.byteAt (ibufOff + k)

end Sys2Proof.Reading

open Sys2Proof Sys2Proof.Machine Sys2Proof.Reading

/-! ## Encoding and decoding -/

/-- 30_encoding.md R81 to R84: the decoder gives back every encoded command with every flag, and a word that it reads
as a command is that command's one encoding. -/
def Obligations.DecodeExactlyInvertsEncode : Prop :=
  (∀ i : Instr, i.wf = true → decode (encode i) = .ok i) ∧
  ∀ (w : Word) (i : Instr), decode w = .ok i → encode i = w

/-- 30_encoding.md R85: the words that the decoder rejects are exactly those with RSVD ≠ 0, OPC ≥ 0x0E, an undefined
flag or CHS = 0b11, and executing one writes only RESULT and clears BUSY. -/
def Obligations.IllegalWordsRaiseIllegal : Prop :=
  ∀ (w : Word) (s : State),
    ((∃ e, decode w = .error e) ↔ (CommandWord.ofWord w).wf = false) ∧
    ((CommandWord.ofWord w).wf = false → s.latched = some w → s.wait = 0 →
      step s = .next { s with result := .illegal, latched := none })

/-- 30_encoding.md R83, R87: words written out from the spec decode to the commands they stand for, and four others to
none, each for its own reason. -/
def Obligations.SpecWordsDecode : Prop :=
  decode 0x00000000#32 = .ok .nop ∧ decode 0x00000101#32 = .ok (.keyInit true) ∧
  decode 0x00000002#32 = .ok .encBlk ∧ decode 0x00000005#32 = .ok .ecbDec ∧
  decode 0x00000406#32 = .ok (.cbcEnc .zero true) ∧ decode 0x00000206#32 = .ok (.cbcEnc .cont false) ∧
  decode 0x00000407#32 = .ok (.cbcDec .zero true) ∧ decode 0x00000107#32 = .ok (.cbcDec .iv false) ∧
  decode 0x00000008#32 = .ok .ivGen ∧ decode 0x00000109#32 = .ok (.b64Enc true) ∧
  decode 0x0000010A#32 = .ok (.b64Dec true) ∧ decode 0x0000000C#32 = .ok .lb64Dec ∧
  decode 0x0000000D#32 = .ok .xfer ∧ decode 0x00010000#32 = .error .reservedBits ∧
  decode 0x0000000E#32 = .error .unknownOpcode ∧ decode 0x00000302#32 = .error .undefinedFlags ∧
  decode 0x00000306#32 = .error .reservedChainStart

/-! ## The step -/

/-- 30_encoding.md R80, R82: with a command in flight whose latency is over, a step is the command that its word decodes
to, and nothing is added around it. -/
def Obligations.StepPerformsLatchedCommand : Prop :=
  (∀ (s : State) (w : Word) (i : Instr), s.latched = some w → s.wait = 0 → decode w = .ok i → step s = exec i s) ∧
  ∀ (s : State) (i : Instr),
    step (s.withFetchWord 32 (encode i).toNat) = exec i { s with latched := some (encode i), wait := 0 }

/-- The model's own scheduling (logs 6 and 7; 00_scope.md R12, 20_memory.md R59): in any state but that of O4 a step
serves the oldest event from outside, or leaves the FBC as it is when there is none, and takes one from the latency of a
command in flight. And 70_reset_and_hazards.md R239: a run has ended exactly when every access has completed and a read
of STATUS returning BUSY = 0 follows each write to CMD; then no command is in flight, and a step leaves the state as it
is. -/
def Obligations.StepServesOutsideOtherwise : Prop :=
  (∀ (s : State) (e : HostEvent) (rest : List HostEvent), s.busy = false → s.pending = e :: rest →
    step s = serve e { s with pending := rest }) ∧
  (∀ (s : State) (w : Word) (n : Nat) (e : HostEvent) (rest : List HostEvent), s.latched = some w → s.wait = n + 1 →
    s.pending = e :: rest → step s = serve e { s with wait := n, pending := rest }) ∧
  (∀ s : State, s.busy = false → s.pending = [] → step s = .next s) ∧
  (∀ (s : State) (w : Word) (n : Nat), s.latched = some w → s.wait = n + 1 → s.pending = [] →
    step s = .next { s with wait := n }) ∧
  (∀ s : State, runEnded s ↔ s.pending = [] ∧ ∀ earlier later width v,
    s.replies = earlier ++ .written width 0x004#12 v :: later →
    ∃ width' v', Reply.data width' 0x008#12 v' ∈ later ∧ v'.toNat % 2 = 0) ∧
  ∀ s : State, s.Inv → runEnded s → s.busy = false ∧ step s = .next s

/-- 10_state.md R22, 30_encoding.md R80: a write to CMD issues the written word while BUSY = 0, and is dropped with
BUSYERR set while BUSY = 1; the latency is a free value. -/
def Obligations.CmdWriteIssuesCommand : Prop :=
  ∀ (s : State) (v : Word),
    (s.busy = false → serve (.write .w32 0x004#12 v) s = .next { s with
      latched := some v, wait := Config.latency s.draws, draws := s.draws + 1,
      replies := s.replies ++ [.written .w32 0x004#12 v] }) ∧
    (s.busy = true → serve (.write .w32 0x004#12 v) s = .next { s with
      busyErr := true, replies := s.replies ++ [.written .w32 0x004#12 v] })

/-- 70_reset_and_hazards.md R238, 20_memory.md R66: a command in flight completes: after as many steps as its latency
and one more BUSY is 0, when the host makes only legal accesses and no reset comes in between. -/
def Obligations.CommandCompletesAfterItsLatency : Prop :=
  ∀ (s : State) (w : Word), s.latched = some w →
    (∀ e ∈ s.pending.take s.wait, ∃ width off, legalAccess width off = true ∧
      (e = .read width off ∨ ∃ v, e = .write width off v)) →
    ∃ t : State, Host.Core.run Sys2Proof.core (s.wait + 1) s = .next t ∧ t.busy = false

/-- 20_memory.md R60, R63: while the latency of a command in flight runs, no access changes what the command reads or
the command itself: of the FBC only BUSYERR can change. -/
def Obligations.InputsCannotChangeWhileBusy : Prop :=
  ∀ (s t : State) (w : Word) (n : Nat), s.latched = some w → s.wait = n + 1 →
    s.pending.head? ≠ some .reset → step s = .next t →
    t = { s with busyErr := t.busyErr, wait := n, pending := s.pending.tail, replies := t.replies, draws := t.draws }

/-! ## Accesses -/

/-- 20_memory.md R52, R53 (R57 for the outcome): an access faults as a BusError exactly if it is not 32-bit or not
aligned in the register region, or not aligned to its width in the buffer regions, whether or not BUSY = 1; every other
access completes; and no legal access crosses a region boundary. -/
def Obligations.BusErrorExactlyOnIllegalAccess : Prop :=
  ∀ (s : State) (width : Width) (off : BitVec 12) (v : Word),
    let illegal := (off.toNat < 0x100 ∧ (width ≠ .w32 ∨ off.toNat % 4 ≠ 0)) ∨
      (0x100 ≤ off.toNat ∧ off.toNat % widthBytes width ≠ 0)
    (illegal → serve (.read width off) s = .fault (.busError (.read width off)) ∧
      serve (.write width off v) s = .fault (.busError (.write width off v))) ∧
    (¬ illegal → (∃ t, serve (.read width off) s = .next t) ∧ ∃ t, serve (.write width off v) s = .next t) ∧
    (¬ illegal → ∀ b ∈ [0x100, 0x150, 0x400, 0x800, 0x1000], off.toNat < b → off.toNat + widthBytes width ≤ b)

/-- 10_state.md R21 to R31, 20_memory.md R55: while BUSY = 0 a read of a register answers its value, unused bits 0, and
changes nothing else. -/
def Obligations.RegisterReadsReturnValues : Prop :=
  ∀ (s : State) (off : BitVec 12) (v : Word), s.busy = false →
    (off, v) ∈ [(0x000#12, 0x46424331#32), (0x004#12, 0#32), (0x008#12, s.statusWord),
      (0x00C#12, BitVec.ofNat 32 s.keyLen.toNat), (0x010#12, BitVec.ofNat 32 s.inLen.toNat),
      (0x014#12, BitVec.ofNat 32 s.outLen.toNat), (0x018#12, s.time), (0x01C#12, BitVec.ofNat 32 s.ctr.toNat),
      (0x020#12, s.ivL), (0x024#12, s.ivR), (0x028#12, s.chainL), (0x02C#12, s.chainR), (0x030#12, s.blkL),
      (0x034#12, s.blkR)] →
    serve (.read .w32 off) s = .next { s with replies := s.replies ++ [.data .w32 off v] }

/-- 10_state.md R23, 60_exceptions.md R201: the bits of the STATUS word. -/
def Obligations.StatusWordLayout : Prop :=
  ∀ s : State, s.statusWord.toNat =
    (if s.busy then 1 else 0) + (if s.keyValid then 2 else 0) + (if s.seeded then 4 else 0)
      + (if s.busyErr then 8 else 0)
      + 256 * (match s.result with
        | .ok => 0 | .illegal => 1 | .noKey => 2 | .keyLen => 3 | .inLen => 4 | .overflow => 5 | .b64Format => 6)

/-- 10_state.md R24, R25, R27, R29, R31, 20_memory.md R55: while BUSY = 0 a write to a read-write register stores the
bits that it has, and nothing else changes. -/
def Obligations.RegisterWritesStore : Prop :=
  ∀ (s : State) (v : Word), s.busy = false →
    serve (.write .w32 0x00C#12 v) s
      = .next { s with keyLen := BitVec.ofNat 7 (v.toNat % 128), replies := s.replies ++ [.written .w32 0x00C#12 v] } ∧
    serve (.write .w32 0x010#12 v) s
      = .next { s with inLen := BitVec.ofNat 12 (v.toNat % 4096), replies := s.replies ++ [.written .w32 0x010#12 v] } ∧
    serve (.write .w32 0x018#12 v) s = .next { s with time := v, replies := s.replies ++ [.written .w32 0x018#12 v] } ∧
    serve (.write .w32 0x020#12 v) s = .next { s with ivL := v, replies := s.replies ++ [.written .w32 0x020#12 v] } ∧
    serve (.write .w32 0x024#12 v) s = .next { s with ivR := v, replies := s.replies ++ [.written .w32 0x024#12 v] } ∧
    serve (.write .w32 0x030#12 v) s = .next { s with blkL := v, replies := s.replies ++ [.written .w32 0x030#12 v] } ∧
    serve (.write .w32 0x034#12 v) s = .next { s with blkR := v, replies := s.replies ++ [.written .w32 0x034#12 v] }

/-- 20_memory.md R55, 10_state.md R32: while BUSY = 0 a legal write to ID, OUTLEN, CTR, CHAIN_L, CHAIN_R or anywhere in
OBUF changes nothing and raises no error. -/
def Obligations.ReadOnlyWritesIgnored : Prop :=
  ∀ (s : State) (width : Width) (off : BitVec 12) (v : Word), s.busy = false → legalAccess width off = true →
    (off ∈ [0x000#12, 0x014#12, 0x01C#12, 0x028#12, 0x02C#12] ∨ 0x800 ≤ off.toNat) →
    serve (.write width off v) s = .next { s with replies := s.replies ++ [.written width off v] }

/-- 20_memory.md R56: reserved offsets read 0 and ignore writes while BUSY = 0; an illegal width or alignment is a
BusError there too. -/
def Obligations.ReservedOffsetsReadZeroIgnoreWrites : Prop :=
  ∀ (s : State) (width : Width) (off : BitVec 12) (v : Word),
    ((0x038 ≤ off.toNat ∧ off.toNat ≤ 0x0FF) ∨ (0x150 ≤ off.toNat ∧ off.toNat ≤ 0x3FF)) →
    (legalAccess width off = true → s.busy = false →
      serve (.read width off) s = .next { s with replies := s.replies ++ [.data width off 0#32] } ∧
      serve (.write width off v) s = .next { s with replies := s.replies ++ [.written width off v] }) ∧
    (legalAccess width off = false → serve (.read width off) s = .fault (.busError (.read width off)) ∧
      serve (.write width off v) s = .fault (.busError (.write width off v)))

/-- 20_memory.md R54: while BUSY = 0 a legal n-byte write of v to KEY or IBUF stores v[8k+7:8k] at byte k of the access
for k < n, every other byte and every register keeping its value. -/
def Obligations.BufferWriteStoresLanes : Prop :=
  ∀ (s : State) (width : Width) (off : BitVec 12) (v : Word), s.busy = false → legalAccess width off = true →
    ((0x100 ≤ off.toNat ∧ off.toNat < 0x150) ∨ (0x400 ≤ off.toNat ∧ off.toNat < 0x800)) →
    ∃ t, serve (.write width off v) s = .next t ∧
      t = { s with mem := t.mem, replies := s.replies ++ [.written width off v] } ∧
      (∀ k < widthBytes width, (t.byteAt (off.toNat + k)).toNat = v.toNat / 2 ^ (8 * k) % 256) ∧
      ∀ a, (a < off.toNat ∨ off.toNat + widthBytes width ≤ a) → t.byteAt a = s.byteAt a

/-- 20_memory.md R54: while BUSY = 0 a legal n-byte read of KEY, IBUF or OBUF answers the word whose bits 8k+7..8k are
byte k of the access for k < n and 0 above, and changes nothing else. -/
def Obligations.BufferReadGathersLanes : Prop :=
  ∀ (s : State) (width : Width) (off : BitVec 12), s.busy = false → legalAccess width off = true →
    ((0x100 ≤ off.toNat ∧ off.toNat < 0x150) ∨ 0x400 ≤ off.toNat) →
    ∃ v : Word, serve (.read width off) s = .next { s with replies := s.replies ++ [.data width off v] } ∧
      ∀ k < 4, v.toNat / 2 ^ (8 * k) % 256 = if k < widthBytes width then (s.byteAt (off.toNat + k)).toNat else 0

/-- 70_reset_and_hazards.md R232, 10_state.md R23: while BUSY = 1 a legal write of any offset but STATUS has no effect
but to set BUSYERR, and an illegal one raises BusError instead. A write to STATUS, busy or not, clears BUSYERR if its
bit 3 is 1, and changes nothing else. -/
def Obligations.WritesWhileBusyDropped : Prop :=
  ∀ (s : State) (width : Width) (off : BitVec 12) (v : Word),
    (s.busy = true → legalAccess width off = true → off ≠ 0x008#12 →
      serve (.write width off v) s = .next { s with busyErr := true, replies := s.replies ++ [.written width off v] }) ∧
    (legalAccess width off = false → serve (.write width off v) s = .fault (.busError (.write width off v))) ∧
    serve (.write .w32 0x008#12 v) s = .next { s with
      busyErr := if v.toNat / 8 % 2 = 1 then false else s.busyErr,
      replies := s.replies ++ [.written .w32 0x008#12 v] }

/-- 70_reset_and_hazards.md R232, 10_state.md R23: BUSYERR stays 1 until the host writes 1 to STATUS bit 3 or reset. -/
def Obligations.BusyErrStaysUntilCleared : Prop :=
  ∀ s t : State, step s = .next t → s.busyErr = true → t.busyErr = false →
    s.pending.head? = some .reset ∨ ∃ v : Word, s.pending.head? = some (.write .w32 0x008#12 v) ∧ v.toNat / 8 % 2 = 1

/-- 70_reset_and_hazards.md R233: while BUSY = 1 a read of ID or STATUS answers its value; a legal read of any other
offset answers some value, and neither changes the FBC (the count of free values is the model's own, log 8). -/
def Obligations.ReadsWhileBusy : Prop :=
  ∀ s : State, s.busy = true →
    serve (.read .w32 0x000#12) s = .next { s with replies := s.replies ++ [.data .w32 0x000#12 0x46424331#32] } ∧
    serve (.read .w32 0x008#12) s = .next { s with replies := s.replies ++ [.data .w32 0x008#12 s.statusWord] } ∧
    ∀ (width : Width) (off : BitVec 12), legalAccess width off = true → off ≠ 0x000#12 → off ≠ 0x008#12 →
      ∃ v, serve (.read width off) s
        = .next { s with draws := s.draws + 1, replies := s.replies ++ [.data width off v] }

/-- 70_reset_and_hazards.md R237(a), 20_memory.md R66: a host that makes no access but reads of ID and STATUS and writes
to STATUS while BUSY = 1 loses no write: none sets BUSYERR, every write that it makes has its effect, whatever BUSYERR
is, and every read that it makes answers the value of what it reads. -/
def Obligations.WaitingHostLosesNothing : Prop :=
  ∀ (s t : State) (e : HostEvent) (rest : List HostEvent), s.pending = e :: rest → (s.busy = true → s.wait ≠ 0) →
    waitsForBusy e s → step s = .next t →
    let u : State := { s with wait := if s.busy then s.wait - 1 else s.wait, pending := rest }
    (s.busyErr = false → t.busyErr = false) ∧
    (∀ width off v, e = .write width off v →
      t = { u.writeValue width off v with replies := s.replies ++ [.written width off v] }) ∧
    ∀ width off, e = .read width off →
      t = { u with replies := s.replies ++ [.data width off (s.readValue width off)] }

/-- 20_memory.md R51: BASE is a multiple of 4096; an access of [BASE, BASE + 4096) reaches the FBC at its offset, and
one outside does not reach it. -/
def Obligations.OnlyTheWindowReachesTheCore : Prop :=
  4096 ∣ Config.base ∧
  ∀ (s : State) (addr : Nat) (access : BitVec 12 → HostEvent),
    (∀ off : BitVec 12, addr = Config.base + off.toNat →
      s.hostAccess addr access = { s with pending := s.pending ++ [access off] }) ∧
    ((addr < Config.base ∨ Config.base + 4096 ≤ addr) → s.hostAccess addr access = s)

/-- 70_reset_and_hazards.md R230, R231: a reset, with a command in flight or not, leaves every register at its reset
value, no command in flight and no buffer byte written; and `State.reset` has those values. (The schedule RAM and σ, to
which the spec gives no value, are not in the statement.) -/
def Obligations.ResetValues : Prop :=
  let atReset (t : State) : Prop :=
    t.busy = false ∧ t.keyValid = false ∧ t.seeded = false ∧ t.busyErr = false ∧ t.result = .ok ∧
    t.statusWord = 0#32 ∧ t.keyLen = 0#7 ∧ t.inLen = 0#12 ∧ t.outLen = 0#12 ∧ t.time = 0#32 ∧ t.ctr = 0#16 ∧
    t.ivL = 0#32 ∧ t.ivR = 0#32 ∧ t.chainL = 0#32 ∧ t.chainR = 0#32 ∧ t.blkL = 0#32 ∧ t.blkR = 0#32 ∧
    t.latched = none ∧ ∀ a, t.mem.read a = none
  atReset State.reset ∧ ∀ s : State, ∃ t, serve .reset s = .next t ∧ atReset t

/-! ## The block cipher core -/

/-- 41_block_cipher.md R114: word 0 is NOP, which completes with OK and changes nothing else, and a NOP word with any
other bit set is ILLEGAL. -/
def Obligations.NopCompletes : Prop :=
  decode 0x00000000#32 = .ok .nop ∧ (∀ w : Word, w.toNat % 256 = 0 → w ≠ 0#32 → ∃ e, decode w = .error e) ∧
  ∀ s : State, exec .nop s = .next { s with result := .ok, latched := none }

/-- 41_block_cipher.md R100: F over the four bytes of the word, the most significant one indexing S[0]. -/
def Obligations.RoundFunction : Prop :=
  ∀ (s : Vector (Vector Word 256) 4) (x : Word), feistelF s x = fOf s x

/-- 41_block_cipher.md R101, R102: encipher and decipher are the loops of the rules, and encipher equals the form that
keeps the halves in place (R101 derives that the two agree). -/
def Obligations.CipherLoops : Prop :=
  ∀ (sc : Schedule) (b : Block),
    encipher sc b = encipherLoop sc b ∧ encipher sc b = encipherInPlace sc b ∧ decipher sc b = decipherLoop sc b

/-- 41_block_cipher.md R103, which the spec derives: for every schedule and every block, decipher undoes encipher and
encipher undoes decipher. -/
def Obligations.DecipherInvertsEncipher : Prop :=
  ∀ (sc : Schedule) (b : Block), decipher sc (encipher sc b) = b ∧ encipher sc (decipher sc b) = b

/-- 41_block_cipher.md R105: subkey i is the initial one xor the four cycled key bytes from 4i on, and the tables are
the initial ones. -/
def Obligations.SubkeyMixing : Prop :=
  ∀ (init : Schedule) (k : List Byte), (mixSubkeys init k).s = init.s ∧
    ∀ (i : Nat) (h : i < 18), (mixSubkeys init k).p[i] = init.p[i] ^^^ chunkLoop k i

/-- 41_block_cipher.md R106: the fill is 521 encipherments in feedback from the zero block, each under the schedule as
it stands, overwriting the 18 + 1024 words two at a time in order. -/
def Obligations.ScheduleFillIsFeedback : Prop :=
  ∀ mixed : Schedule, fillSchedule mixed = ((List.range 521).foldl fillTurn (mixed, { l := 0#32, r := 0#32 })).1

/-- 41_block_cipher.md R107, which the spec derives: the schedule is a function of the first 72 bytes of the cycled key,
so a key of 73 bytes or more acts as its first 72 and one made of whole copies of u as u; and with CAP56 = 1 a KEYLEN of
56 or more takes KEY[0..56). -/
def Obligations.ScheduleLaws : Prop :=
  (∀ (init : Schedule) (k k' : List Byte), k ≠ [] → k' ≠ [] →
    (∀ j < 72, k.getD (j % k.length) 0#8 = k'.getD (j % k'.length) 0#8) → schedule init k = schedule init k') ∧
  (∀ (init : Schedule) (k : List Byte), 72 ≤ k.length → schedule init k = schedule init (k.take 72)) ∧
  (∀ (init : Schedule) (u : List Byte) (m : Nat), u ≠ [] → 1 ≤ m →
    schedule init (List.replicate m u).flatten = schedule init u) ∧
  ∀ s : State, 56 ≤ s.keyLen.toNat → s.effectiveKey true = s.bytes keyOff 56

/-- 41_block_cipher.md R104, R110: with KEYLEN in 1..80 KEY_INIT stores the schedule of KEY[0..n), n = min(KEYLEN, cap),
and sets KEYVALID; with any other KEYLEN it raises KEYLEN and the old schedule and KEYVALID stay. Its words are 0x001
with cap 80 and 0x101 with cap 56. The schedule starts from the default INIT_TABLES (log 10, unsafe for an FBC with
other tables), which have the check values of 42_cipher_tables.md R132. -/
def Obligations.KeyInitDerivesSchedule : Prop :=
  decode 0x00000001#32 = .ok (.keyInit false) ∧ decode 0x00000101#32 = .ok (.keyInit true) ∧
  tableCheck initTables.p.toList 0x243F6A88#32 0x8979FB1B#32 0xB73AD7EA#32 0x8E4D14CC#32 ∧
  tableCheck initTables.s[0].toList 0xD1310BA6#32 0x6E85076A#32 0x4EB4DB7F#32 0x4B745115#32 ∧
  tableCheck initTables.s[1].toList 0x4B7A70E9#32 0xDB83ADF7#32 0xC727E122#32 0x72FF37B2#32 ∧
  tableCheck initTables.s[2].toList 0xE93D5A68#32 0x406000E0#32 0x462A5D01#32 0x2AC02B91#32 ∧
  tableCheck initTables.s[3].toList 0x3A39CE37#32 0x3AC372E6#32 0x1779E2BC#32 0xF43E3A88#32 ∧
  feistelF initTables.s 0#32 = 0x2FCFF51E#32 ∧
  encipher initTables { l := 0#32, r := 0#32 } = { l := 0x706D9FCC#32, r := 0x1792D23A#32 } ∧
  ∀ (s : State) (cap56 : Bool),
    (1 ≤ s.keyLen.toNat → s.keyLen.toNat ≤ 80 →
      exec (.keyInit cap56) s = .next { s with
        sched := schedule initTables
          ((List.range (min s.keyLen.toNat (if cap56 then 56 else 80))).map (fun i => s.byteAt (keyOff + i)))
        keyValid := true, result := .ok, latched := none }) ∧
    ((s.keyLen.toNat = 0 ∨ 80 < s.keyLen.toNat) →
      exec (.keyInit cap56) s = .next { s with result := .keyLen, latched := none })

/-- 41_block_cipher.md R112, R113: with a key, ENC_BLK and DEC_BLK replace the block in BLK_L, BLK_R by its encipherment
or decipherment; without one they raise NOKEY and BLK stays. Their words are 2 and 3. -/
def Obligations.BlockCommands : Prop :=
  decode 0x00000002#32 = .ok .encBlk ∧ decode 0x00000003#32 = .ok .decBlk ∧
  ∀ s : State,
    (s.keyValid = true → exec .encBlk s = .next { s with
      blkL := (encipher s.sched ⟨s.blkL, s.blkR⟩).l, blkR := (encipher s.sched ⟨s.blkL, s.blkR⟩).r,
      result := .ok, latched := none }) ∧
    (s.keyValid = true → exec .decBlk s = .next { s with
      blkL := (decipher s.sched ⟨s.blkL, s.blkR⟩).l, blkR := (decipher s.sched ⟨s.blkL, s.blkR⟩).r,
      result := .ok, latched := none }) ∧
    (s.keyValid = false → exec .encBlk s = .next { s with result := .noKey, latched := none } ∧
      exec .decBlk s = .next { s with result := .noKey, latched := none })

/-! ## ECB, CBC, the IV generator and XFER -/

/-- 43_modes_and_iv.md R140, R141, R145: with a key and INLEN in range ECB_ENC enciphers the zero-padded input block by
block into OBUF, OUTLEN being pad8(INLEN), and changes nothing else. -/
def Obligations.EcbEncEnciphersBlocks : Prop :=
  ∀ s : State, s.keyValid = true → s.inLen.toNat ≤ 1024 →
    ∃ t, exec .ecbEnc s = .next t ∧ outputFrame s t (pad8 s.inLen.toNat) ∧
      ∀ j < pad8 s.inLen.toNat / 8,
        blockAt (outputAt t) (8 * j) = encipher s.sched (blockAt (inputAt s) (8 * j))

/-- 43_modes_and_iv.md R140, R141, R146: as R145, with decipher. -/
def Obligations.EcbDecDeciphersBlocks : Prop :=
  ∀ s : State, s.keyValid = true → s.inLen.toNat ≤ 1024 →
    ∃ t, exec .ecbDec s = .next t ∧ outputFrame s t (pad8 s.inLen.toNat) ∧
      ∀ j < pad8 s.inLen.toNat / 8,
        blockAt (outputAt t) (8 * j) = decipher s.sched (blockAt (inputAt s) (8 * j))

/-- 43_modes_and_iv.md R147(a), which the spec derives: ECB_ENC, XFER, ECB_DEC under one schedule give back the input
and its zero padding. -/
def Obligations.EcbRoundTrip : Prop :=
  ∀ s : State, s.keyValid = true → s.inLen.toNat ≤ 1024 →
    ∃ s1 s2 s3, exec .ecbEnc s = .next s1 ∧ exec .xfer s1 = .next s2 ∧ exec .ecbDec s2 = .next s3 ∧
      s3.result = .ok ∧ s3.outLen.toNat = pad8 s.inLen.toNat ∧
      ∀ i < pad8 s.inLen.toNat, outputAt s3 i = inputAt s i

/-- 43_modes_and_iv.md R148, R150: with a key and INLEN in range CBC_ENC enciphers each block of its zero-padded source
xor the ciphertext block before it, or the chain's start value, and leaves the last chain value in CHAIN. -/
def Obligations.CbcEncChainsBlocks : Prop :=
  ∀ (s : State) (chs : ChainStart) (piv : Bool), s.keyValid = true → s.inLen.toNat ≤ 1024 →
    let m := pad8 ((if piv then 8 else 0) + s.inLen.toNat)
    ∃ t, exec (.cbcEnc chs piv) s = .next t ∧
      outputFrame { s with chainL := t.chainL, chainR := t.chainR } t m ∧
      (∀ j < m / 8, blockAt (outputAt t) (8 * j) = encipher s.sched (xorBlocks (blockAt (cbcInputAt s piv) (8 * j))
        (if j = 0 then chainStartValue s chs else blockAt (outputAt t) (8 * (j - 1))))) ∧
      (⟨t.chainL, t.chainR⟩ : Block)
        = if m = 0 then chainStartValue s chs else blockAt (outputAt t) (8 * (m / 8 - 1))

/-- 43_modes_and_iv.md R148, R151: with a key and INLEN in range CBC_DEC deciphers each block of the zero-padded input
and xors it with the input block before it, or the chain's start value; DROP = 1 discards the first eight bytes; CHAIN
is left at the last input block. -/
def Obligations.CbcDecUnchainsBlocks : Prop :=
  ∀ (s : State) (chs : ChainStart) (drop : Bool), s.keyValid = true → s.inLen.toNat ≤ 1024 →
    let m := pad8 s.inLen.toNat
    let d := if drop then min 8 m else 0
    let plain (j : Nat) : Block := xorBlocks (decipher s.sched (blockAt (inputAt s) (8 * j)))
      (if j = 0 then chainStartValue s chs else blockAt (inputAt s) (8 * (j - 1)))
    ∃ t, exec (.cbcDec chs drop) s = .next t ∧
      outputFrame { s with chainL := t.chainL, chainR := t.chainR } t (m - d) ∧
      (∀ j < (m - d) / 8, blockAt (outputAt t) (8 * j) = plain (j + d / 8)) ∧
      (⟨t.chainL, t.chainR⟩ : Block) = if m = 0 then chainStartValue s chs else blockAt (inputAt s) (8 * (m / 8 - 1))

/-- 43_modes_and_iv.md R152(a), which the spec derives: CBC_ENC, XFER, CBC_DEC with one chain start, zero or iv, give
back the input and its zero padding; and so do CBC_ENC chs=zero piv, XFER, CBC_DEC chs=zero drop, whatever the IV, when
the input leaves room for the IV block in IBUF. -/
def Obligations.CbcRoundTrip : Prop :=
  ∀ s : State, s.keyValid = true → s.inLen.toNat ≤ 1024 →
    (∀ chs : ChainStart, chs ≠ .cont →
      ∃ s1 s2 s3, exec (.cbcEnc chs false) s = .next s1 ∧ exec .xfer s1 = .next s2 ∧
        exec (.cbcDec chs false) s2 = .next s3 ∧ s3.result = .ok ∧ s3.outLen.toNat = pad8 s.inLen.toNat ∧
        ∀ i < pad8 s.inLen.toNat, outputAt s3 i = inputAt s i) ∧
    (s.inLen.toNat ≤ 1016 →
      ∃ s1 s2 s3, exec (.cbcEnc .zero true) s = .next s1 ∧ exec .xfer s1 = .next s2 ∧
        exec (.cbcDec .zero true) s2 = .next s3 ∧ s3.result = .ok ∧ s3.outLen.toNat = pad8 s.inLen.toNat ∧
        ∀ i < pad8 s.inLen.toNat, outputAt s3 i = inputAt s i)

/-- 43_modes_and_iv.md R152(b), which the spec derives: CBC_ENC chs=zero piv gives C0 = encipher(IV) and then what
CBC_ENC chs=iv gives on the same input in a state whose IV is C0. -/
def Obligations.CbcSourceFormsAgree : Prop :=
  ∀ s : State, s.keyValid = true → s.inLen.toNat ≤ 1024 →
    let c0 := encipher s.sched ⟨s.ivL, s.ivR⟩
    ∃ t u, exec (.cbcEnc .zero true) s = .next t ∧
      exec (.cbcEnc .iv false) { s with ivL := c0.l, ivR := c0.r } = .next u ∧
      t.outLen.toNat = 8 + u.outLen.toNat ∧ blockAt (outputAt t) 0 = c0 ∧
      ∀ i < u.outLen.toNat, outputAt t (8 + i) = outputAt u i

/-- 43_modes_and_iv.md R152(c), which the spec derives: an input cut at a multiple of 8 gives, encrypted or decrypted in
two commands of which the second continues the chain, the bytes and the CHAIN that one command gives. The first command
has the CHS, and the PIV or DROP, of the one command. The second runs in any state with the schedule of the first and
the CHAIN that it left, whose input is the rest. With DROP the cut is not at 0: there the first command has no bytes to
discard, and the one command discards eight that the second gives. -/
def Obligations.CbcSplits : Prop :=
  ∀ (s a b : State) (chs : ChainStart) (n : Nat), s.keyValid = true → s.inLen.toNat ≤ 1024 →
    8 ∣ n → n ≤ s.inLen.toNat →
    a = { s with inLen := BitVec.ofNat 12 n } →
    b.keyValid = true → b.sched = s.sched → b.inLen.toNat = s.inLen.toNat - n →
    (∀ i < b.inLen.toNat, b.byteAt (ibufOff + i) = s.byteAt (ibufOff + (n + i))) →
    (∀ piv : Bool, splitsInto s (.cbcEnc chs piv) a (.cbcEnc .cont false) b) ∧
    ∀ drop : Bool, (drop = true → n ≠ 0) → splitsInto s (.cbcDec chs drop) a (.cbcDec .cont false) b

/-- 43_modes_and_iv.md R152(d), which the spec derives: two encryptions in the modern form under one schedule differ
whenever their IVs differ. -/
def Obligations.CbcDiffersWithTheIv : Prop :=
  ∀ s t s' t' : State, s.keyValid = true → t.keyValid = true → s.sched = t.sched →
    s.inLen.toNat ≤ 1024 → t.inLen.toNat ≤ 1024 → (s.ivL ≠ t.ivL ∨ s.ivR ≠ t.ivR) →
    exec (.cbcEnc .zero true) s = .next s' → exec (.cbcEnc .zero true) t = .next t' →
    ∃ i < 8, outputAt s' i ≠ outputAt t' i

/-- 43_modes_and_iv.md R153: IV_GEN seeds σ from TIME at the first call after reset, draws r, writes IV_L = TIME and
IV_R = (r + CTR) mod 2^32, and counts CTR modulo 65534; the PRNG is any pair of functions. Its word is 8. -/
def Obligations.IvGenMakesIv : Prop :=
  decode 0x00000008#32 = .ok .ivGen ∧
  ∀ s : State,
    let drawn := Config.prngNext (if s.seeded then s.sigma else Config.prngSeed s.time)
    exec .ivGen s = .next { s with
      sigma := drawn.1, seeded := true, ivL := s.time,
      ivR := BitVec.ofNat 32 ((drawn.2.toNat + s.ctr.toNat) % 2 ^ 32),
      ctr := BitVec.ofNat 16 ((s.ctr.toNat + 1) % 65534), result := .ok, latched := none }

/-- 43_modes_and_iv.md R156: with OUTLEN in range XFER copies OBUF[0..OUTLEN) to IBUF and sets INLEN, nothing else
changing; else it raises OVERFLOW and changes nothing else. Its word is 0x0D. -/
def Obligations.XferCopiesOutput : Prop :=
  decode 0x0000000D#32 = .ok .xfer ∧
  ∀ s : State,
    (s.outLen.toNat ≤ 1024 → ∃ t, exec .xfer s = .next t ∧
      t = { s with inLen := s.outLen, mem := t.mem, result := .ok, latched := none } ∧
      (∀ i < s.outLen.toNat, t.byteAt (ibufOff + i) = s.byteAt (obufOff + i)) ∧
      ∀ a, (a < ibufOff ∨ ibufOff + s.outLen.toNat ≤ a) → t.byteAt a = s.byteAt a) ∧
    (1024 < s.outLen.toNat → exec .xfer s = .next { s with result := .overflow, latched := none })

/-! ## Base64 -/

/-- 44_base64.md R170, R171: the standard alphabet has the 64 characters of R170 in their order, and std_val is its
inverse on exactly those bytes; standard encoding makes 4⌈ℓ/3⌉ characters; character 4g + i is '=' where the group has
not the byte for it, and else the alphabet's character for the i-th six bits of the group's three bytes, missing bytes
being 0. -/
def Obligations.StandardEncodingByIndex : Prop :=
  (∀ v : BitVec 6, standardAlphabet[v.toNat]? = some (stdChar v)) ∧
  (∀ (c : Byte) (v : BitVec 6), stdVal c = some v ↔ standardAlphabet[v.toNat]? = some c) ∧
  ∀ src : List Byte, (b64 src).length = 4 * ((src.length + 2) / 3) ∧
    ∀ g < (src.length + 2) / 3, ∀ i < 4,
      let w := (padded src (3 * g)).toNat * 65536 + (padded src (3 * g + 1)).toNat * 256
        + (padded src (3 * g + 2)).toNat
      (b64 src)[4 * g + i]? = if src.length < 3 * g + i then some 0x3D#8
        else standardAlphabet[w / 2 ^ (18 - 6 * i) % 64]?

/-- 44_base64.md R173: wrapping puts one line feed after every 76 characters that more characters follow, and changes no
character. -/
def Obligations.LineWrapByIndex : Prop :=
  ∀ e : List Byte, (wrap76 e).length = e.length + (e.length - 1) / 76 ∧
    (∀ i < e.length, (wrap76 e)[i + i / 76]? = e[i]?) ∧
    ∀ j, 1 ≤ j → 76 * j < e.length → (wrap76 e)[77 * j - 1]? = some 0x0A#8

/-- 44_base64.md R172: with INLEN in range B64_ENC writes the encoding, wrapped with WRAP = 1, to OBUF, and changes
nothing else. -/
def Obligations.B64EncWritesEncoding : Prop :=
  ∀ (s : State) (wrap : Bool), s.inLen.toNat ≤ 1024 →
    let src := (List.range s.inLen.toNat).map (fun i => s.byteAt (ibufOff + i))
    let e := if wrap then wrap76 (b64 src) else b64 src
    ∃ t, exec (.b64Enc wrap) s = .next t ∧ outputFrame s t e.length ∧
      ∀ i < e.length, outputAt t i = padded e i

/-- 44_base64.md R174: the characters that decoding keeps are the 64 of the standard alphabet and '=', and their values
are those of the alphabet (R170); when standard decoding is an error, and what it gives otherwise. -/
def Obligations.StandardDecodingByIndex : Prop :=
  (∀ (c : Byte) (v : BitVec 6), stdVal c = some v ↔ standardAlphabet[v.toNat]? = some c) ∧
  (∀ c : Byte, significant c = true ↔ c ∈ standardAlphabet ∨ c = 0x3D#8) ∧
  ∀ (t : List Byte) (strict : Bool),
    let sig := t.filter significant
    let full := completed t
    let group (g i : Nat) : Byte := full.getD (4 * g + i) 0#8
    let bad := (strict = true ∧ ∃ c ∈ t, significant c = false) ∨ sig.length % 4 = 1 ∨
      (strict = true ∧ sig.length % 4 ≠ 0) ∨
      ∃ g < full.length / 4, groupSize (group g) = none ∨ (g + 1 < full.length / 4 ∧ groupSize (group g) ≠ some 3)
    (b64dec t strict = none ↔ bad) ∧
    ∀ out, b64dec t strict = some out →
      (full = [] → out = []) ∧
      (∀ q, full ≠ [] → groupSize (group (full.length / 4 - 1)) = some q →
        out.length = 3 * (full.length / 4 - 1) + q) ∧
      ∀ g < full.length / 4, ∀ i < 3, 3 * g + i < out.length →
        (out.getD (3 * g + i) 0#8).toNat = groupValue (group g) / 2 ^ (16 - 8 * i) % 256

/-- 44_base64.md R175: with INLEN in range B64_DEC writes what its input decodes to to OBUF, changing nothing else, or
raises B64FORMAT with OUTLEN = 0 and OBUF unchanged. -/
def Obligations.B64DecWritesDecoding : Prop :=
  ∀ (s : State) (strict : Bool), s.inLen.toNat ≤ 1024 →
    let src := (List.range s.inLen.toNat).map (fun i => s.byteAt (ibufOff + i))
    (∀ d, b64dec src strict = some d → ∃ t, exec (.b64Dec strict) s = .next t ∧ outputFrame s t d.length ∧
      ∀ i < d.length, outputAt t i = padded d i) ∧
    (b64dec src strict = none →
      exec (.b64Dec strict) s = .next { s with outLen := 0#12, result := .b64Format, latched := none })

/-- 44_base64.md R176, which the spec derives: decoding gives back what was encoded, strict or lenient; lenient decoding
of wrapped text too; and strict decoding of text that the wrap broke is an error. -/
def Obligations.StandardRoundTrip : Prop :=
  ∀ src : List Byte,
    b64dec (b64 src) false = some src ∧ b64dec (b64 src) true = some src ∧
    b64dec (wrap76 (b64 src)) false = some src ∧
    (76 < (b64 src).length → b64dec (wrap76 (b64 src)) true = none)

/-- 44_base64.md R180, R181, R182: with INLEN in range LB64_ENC writes 12 characters for each block of the zero-padded
input, the right word's six-bit groups first, least significant first, and changes nothing else. -/
def Obligations.Lb64EncWritesGroups : Prop :=
  ∀ s : State, s.inLen.toNat ≤ 1024 →
    ∃ t, exec .lb64Enc s = .next t ∧ outputFrame s t (12 * (pad8 s.inLen.toNat / 8)) ∧
      ∀ j < pad8 s.inLen.toNat / 8, ∀ i < 6,
        legacyAlphabet[(blockAt (inputAt s) (8 * j)).r.toNat / 2 ^ (6 * i) % 64]? = some (outputAt t (12 * j + i)) ∧
        legacyAlphabet[(blockAt (inputAt s) (8 * j)).l.toNat / 2 ^ (6 * i) % 64]? = some (outputAt t (12 * j + 6 + i))

/-- 44_base64.md R180, R183, R184: with INLEN in range LB64_DEC decodes the input up to its first zero byte in groups of
12, a missing character counting 0, six characters to a word modulo 2^32, the right word first; it never reports a
format error and changes nothing else. -/
def Obligations.Lb64DecReadsGroups : Prop :=
  ∀ s : State, s.inLen.toNat ≤ 1024 →
    let src := (List.range s.inLen.toNat).map (fun i => s.byteAt (ibufOff + i))
    let z := (src.takeWhile (fun c => c != 0x00#8)).length
    let v (i : Nat) : Nat := if i < z then legacyPosition (padded src i) else 0
    let word (i : Nat) : Nat := (v i + v (i + 1) * 2 ^ 6 + v (i + 2) * 2 ^ 12 + v (i + 3) * 2 ^ 18
      + v (i + 4) * 2 ^ 24 + v (i + 5) * 2 ^ 30) % 2 ^ 32
    ∃ t, exec .lb64Dec s = .next t ∧ outputFrame s t (8 * ((z + 11) / 12)) ∧
      ∀ g < (z + 11) / 12, (blockAt (outputAt t) (8 * g)).r.toNat = word (12 * g) ∧
        (blockAt (outputAt t) (8 * g)).l.toNat = word (12 * g + 6)

/-- 44_base64.md R180, R185, of which the spec derives R185: legacy encoding and decoding use the 64 characters of R180
in their order, a byte outside them having value 0; decoding gives back what was encoded and its zero padding; every
encoded character is one of the 64 of the alphabet and none is the zero byte. -/
def Obligations.LegacyRoundTrip : Prop :=
  (∀ v : BitVec 6, legacyAlphabet[v.toNat]? = some (legChar v)) ∧ (∀ c : Byte, (legVal c).toNat = legacyPosition c) ∧
  ∀ src : List Byte,
    legDec (legEnc src) = src ++ List.replicate (pad8 src.length - src.length) 0#8 ∧
    ∀ c ∈ legEnc src, c ≠ 0x00#8 ∧ c ∈ legacyAlphabet

/-! ## Errors and frames, over all commands -/

/-- 60_exceptions.md R201, R202, R203, R204: every command completes, and the code it reports is OK or the first error
that applies to it in the order of R204. -/
def Obligations.ResultIsTheFirstError : Prop :=
  ∀ (i : Instr) (s : State), ∃ t, exec i s = .next t ∧ t.busy = false ∧ t.result = firstError i s

/-- 60_exceptions.md R200: a command that raises an error writes RESULT and BUSY, and OUTLEN <- 0 if it is one of the
eight that write OBUF, and nothing else. -/
def Obligations.ErrorsWriteOnlyTheResult : Prop :=
  ∀ (i : Instr) (s t : State), exec i s = .next t → t.result ≠ .ok →
    t = { s with
      result := t.result, latched := none, outLen := if writesOutput i then 0#12 else s.outLen }

/-- 30_encoding.md R86 (the column "writes"), 10_state.md R26, R27, R28, R30, R32, R35: no command changes a register, a
special register or a byte that the table does not list for it; no command writes KEY, and OBUF keeps its bytes at and
above the new OUTLEN. -/
def Obligations.CommandsWriteOnlyTheirOperands : Prop :=
  ∀ (i : Instr) (s t : State), exec i s = .next t →
    t.keyLen = s.keyLen ∧ t.time = s.time ∧ t.busyErr = s.busyErr ∧
    ((∀ c, i ≠ .keyInit c) → t.sched = s.sched ∧ t.keyValid = s.keyValid) ∧
    (i ≠ .encBlk → i ≠ .decBlk → t.blkL = s.blkL ∧ t.blkR = s.blkR) ∧
    ((∀ c p, i ≠ .cbcEnc c p) → (∀ c d, i ≠ .cbcDec c d) → t.chainL = s.chainL ∧ t.chainR = s.chainR) ∧
    (i ≠ .ivGen → t.ivL = s.ivL ∧ t.ivR = s.ivR ∧ t.ctr = s.ctr ∧ t.sigma = s.sigma ∧ t.seeded = s.seeded) ∧
    (i ≠ .xfer → t.inLen = s.inLen) ∧ (writesOutput i = false → t.outLen = s.outLen) ∧
    (t.wait = s.wait ∧ t.pending = s.pending ∧ t.replies = s.replies ∧ t.draws = s.draws ∧ t.resets = s.resets) ∧
    (∀ a, (i ≠ .xfer → writesOutput i = false → t.byteAt a = s.byteAt a) ∧
      (i = .xfer → a < ibufOff ∨ ibufOff + t.inLen.toNat ≤ a → t.byteAt a = s.byteAt a) ∧
      (writesOutput i = true → a < obufOff ∨ obufOff + t.outLen.toNat ≤ a → t.byteAt a = s.byteAt a))

/-- 30_encoding.md R86 (the column "reads"), 60_exceptions.md R202: two states that agree on what a command reads give
the same result code and, where it is OK, the same values of what the command writes. -/
def Obligations.CommandsReadOnlyTheirOperands : Prop :=
  ∀ (i : Instr) (s t s' t' : State), agreeOnReads i s t → exec i s = .next s' → exec i t = .next t' →
    s'.result = t'.result ∧ (s'.result = .ok → agreeOnWrites i s' t')

/-- 60_exceptions.md R202, 10_state.md R35, R36: what the schedule RAM holds without a key, and what σ holds before the
first IV_GEN, reaches nothing but itself: no command's effect, and over a whole step no other part of the state, no
reply to a host access among it, and no fault. (It makes the model's reset values unobservable, logs 2 and 3.) -/
def Obligations.UnsetScheduleAndSigmaUnobserved : Prop :=
  (∀ (i : Instr) (s : State) (sc : Schedule) (sigma : Nat),
    (s.keyValid = false → ∃ t u, exec i s = .next t ∧ exec i { s with sched := sc } = .next u ∧
      (t = u ∨ (u = { t with sched := sc } ∧ t.keyValid = false))) ∧
    (s.seeded = false → ∃ t u, exec i s = .next t ∧ exec i { s with sigma := sigma } = .next u ∧
      (t = u ∨ (u = { t with sigma := sigma } ∧ t.seeded = false)))) ∧
  ∀ (s : State) (sc : Schedule) (sigma : Nat),
    (s.keyValid = false →
      (∀ t, step s = .next t → ∃ u, step { s with sched := sc } = .next u ∧
        (t = u ∨ (u = { t with sched := sc } ∧ t.keyValid = false))) ∧
      ∀ f, step s = .fault f → step { s with sched := sc } = .fault f) ∧
    (s.seeded = false →
      (∀ t, step s = .next t → ∃ u, step { s with sigma := sigma } = .next u ∧
        (t = u ∨ (u = { t with sigma := sigma } ∧ t.seeded = false))) ∧
      ∀ f, step s = .fault f → step { s with sigma := sigma } = .fault f)

/-- 70_reset_and_hazards.md R236: a command that reads only bytes written since reset does not depend on the free values
of the others (which are free anew in each count of resets, log 1). -/
def Obligations.WrittenBytesDecideTheResult : Prop :=
  ∀ (i : Instr) (s : State) (n : Nat), readsWritten i s →
    ∃ t, exec i s = .next t ∧ exec i { s with resets := n } = .next { t with resets := n }

/-! ## Invariants and whole-machine rules -/

/-- 10_state.md R23, R26, R28, 20_memory.md R50: the invariant holds after reset. -/
def Obligations.ResetMeetsInv : Prop := State.reset.Inv

/-- 10_state.md R23, R26, R28, 20_memory.md R50: every step keeps the invariant: CTR below 65534, OUTLEN at most 2048,
memory in canonical form with nothing stored outside KEY, IBUF and OBUF, and no read of STATUS returning BUSY = 0
between the last write to CMD and the end of its command. -/
def Obligations.StepKeepsInv : Prop :=
  ∀ s t : State, s.Inv → step s = .next t → t.Inv

/-- 10_state.md R27, R28, R30, R35: over a whole step, a reset apart, only a successful KEY_INIT changes the schedule or
KEYVALID, only IV_GEN changes CTR or σ or SEEDED, only CBC_ENC and CBC_DEC change CHAIN, and only a host write changes
TIME, KEYLEN or a byte of KEY. -/
def Obligations.OnlyTheirCommandsChangeSpecialState : Prop :=
  ∀ s t : State, step s = .next t → t.resets = s.resets →
    let performs (i : Instr) : Prop := ∃ w, s.latched = some w ∧ s.wait = 0 ∧ decode w = .ok i
    (t.sched ≠ s.sched ∨ t.keyValid ≠ s.keyValid → ∃ c, performs (.keyInit c) ∧ t.result = .ok ∧ t.keyValid = true) ∧
    (t.ctr ≠ s.ctr ∨ t.sigma ≠ s.sigma ∨ t.seeded ≠ s.seeded → performs .ivGen) ∧
    (t.chainL ≠ s.chainL ∨ t.chainR ≠ s.chainR → ∃ c f, performs (.cbcEnc c f) ∨ performs (.cbcDec c f)) ∧
    (t.time ≠ s.time → s.busy = false ∧ s.pending.head? = some (.write .w32 0x018#12 t.time)) ∧
    (t.keyLen ≠ s.keyLen → s.busy = false ∧ ∃ v, s.pending.head? = some (.write .w32 0x00C#12 v)) ∧
    ∀ a, keyOff ≤ a → a < keyOff + 80 → t.byteAt a ≠ s.byteAt a →
      s.busy = false ∧ ∃ width off v, s.pending.head? = some (.write width off v) ∧
        off.toNat ≤ a ∧ a < off.toNat + widthBytes width
end

