-- ==== Sys2Proof/Laws/Memory.lean ====
section
/-! SUPPORT. What the memory operations do: read after write, the canonical form, and the buffer reads over them. -/

namespace Sys2Proof.Machine

variable {m m' : Memory} {a x : Nat} {b : Byte} {bs : List Byte} {s : State}

@[simp] theorem Memory.read_nil : Memory.read [] a = none := rfl

theorem Memory.read_write : (m.write a b).read x = if x = a then some b else m.read x := by
  induction m with
  | nil => simp [Memory.write, Memory.read]
  | cons c m ih =>
    obtain ⟨k, c⟩ := c
    simp only [Memory.write]
    split
    · simp [Memory.read]
    · split
      · subst_vars; simp only [Memory.read]; split <;> rfl
      · simp only [Memory.read, ih]
        split <;> split <;> simp_all

@[simp] theorem Memory.read_write_same : (m.write a b).read a = some b := by simp [Memory.read_write]

theorem Memory.read_write_other (h : x ≠ a) : (m.write a b).read x = m.read x := by simp [Memory.read_write, h]

@[simp] theorem Memory.writeBytes_nil : m.writeBytes a [] = m := rfl

theorem Memory.read_writeBytes :
    (m.writeBytes a bs).read x = if a ≤ x ∧ x < a + bs.length then bs[x - a]? else m.read x := by
  induction bs generalizing m a with
  | nil => simp only [Memory.writeBytes_nil, List.length_nil]; rw [if_neg (by omega)]
  | cons b bs ih =>
    simp only [Memory.writeBytes, ih, Memory.read_write, List.length_cons]
    by_cases hx : x = a
    · subst hx; rw [if_neg (by omega), if_pos rfl, if_pos (by omega)]; simp
    · by_cases h : a + 1 ≤ x ∧ x < a + 1 + bs.length
      · rw [if_pos h, if_pos (by omega), show x - a = (x - (a + 1)) + 1 by omega]; rfl
      · rw [if_neg h, if_neg hx, if_neg (by omega)]

theorem Memory.read_writeBytes_outside (h : x < a ∨ a + bs.length ≤ x) :
    (m.writeBytes a bs).read x = m.read x := by
  rw [Memory.read_writeBytes, if_neg (by omega)]

theorem Memory.mem_write {c : Host.Cell} (h : c ∈ m.write a b) : c = (a, b) ∨ c ∈ m := by
  induction m with
  | nil => simpa [Memory.write] using h
  | cons d m ih =>
    obtain ⟨k, d⟩ := d
    simp only [Memory.write] at h
    split at h
    · simpa using h
    · split at h
      · rcases List.mem_cons.mp h with h | h
        · exact .inl h
        · exact .inr (List.mem_cons_of_mem _ h)
      · rcases List.mem_cons.mp h with h | h
        · exact .inr (h ▸ List.mem_cons_self)
        · exact (ih h).imp_right (List.mem_cons_of_mem _)

/-- A write keeps the canonical form. -/
theorem Memory.wf_write (h : m.wf) : (m.write a b).wf := by
  induction m with
  | nil => simp [Memory.write, Memory.wf]
  | cons c m ih =>
    obtain ⟨k, c⟩ := c
    rw [Memory.wf, List.pairwise_cons] at h
    simp only [Memory.write]
    split
    · rw [Memory.wf, List.pairwise_cons, List.pairwise_cons]
      refine ⟨fun d hd => ?_, h⟩
      rcases List.mem_cons.mp hd with rfl | hd
      · assumption
      · exact lt_trans ‹a < k› (h.1 d hd)
    · split
      · subst_vars; exact List.pairwise_cons.mpr h
      · refine List.pairwise_cons.mpr ⟨fun d hd => ?_, ih h.2⟩
        rcases Memory.mem_write hd with rfl | hd
        · show k < a; omega
        · exact h.1 d hd

/-- Writing bytes keeps the canonical form. -/
theorem Memory.wf_writeBytes (h : m.wf) : (m.writeBytes a bs).wf := by
  induction bs generalizing m a with
  | nil => exact h
  | cons b bs ih => exact ih (Memory.wf_write h)

theorem Memory.mem_writeBytes {c : Host.Cell} (h : c ∈ m.writeBytes a bs) :
    (a ≤ c.1 ∧ c.1 < a + bs.length) ∨ c ∈ m := by
  induction bs generalizing m a with
  | nil => exact .inr h
  | cons b bs ih =>
    rcases ih h with h | h
    · left; simp only [List.length_cons]; omega
    · rcases Memory.mem_write h with rfl | h
      · left; simp
      · exact .inr h

theorem Memory.read_of_lt (h : ∀ c ∈ m, x < c.1) : m.read x = none := by
  induction m with
  | nil => rfl
  | cons c m ih =>
    have hc : x ≠ c.1 := Nat.ne_of_lt (h c List.mem_cons_self)
    simp only [Memory.read, hc, if_false]
    exact ih (fun d hd => h d (List.mem_cons_of_mem _ hd))

/-- In canonical form, memories that read alike are equal. -/
theorem Memory.ext_of_wf (h : m.wf) (h' : m'.wf) (hr : ∀ x, m.read x = m'.read x) : m = m' := by
  induction m generalizing m' with
  | nil =>
    cases m' with
    | nil => rfl
    | cons c m' => simpa [Memory.read] using hr c.1
  | cons c m ih =>
    cases m' with
    | nil => simpa [Memory.read] using hr c.1
    | cons d m' =>
      obtain ⟨k, b⟩ := c
      obtain ⟨k', b'⟩ := d
      rw [Memory.wf, List.pairwise_cons] at h h'
      have hk : k = k' := by
        rcases Nat.lt_trichotomy k k' with hlt | heq | hgt
        · have := hr k
          rw [Memory.read_of_lt (m := (k', b') :: m') (fun d hd => by
            rcases List.mem_cons.mp hd with rfl | hd
            · exact hlt
            · exact lt_trans hlt (h'.1 d hd))] at this
          simp [Memory.read] at this
        · exact heq
        · have := hr k'
          rw [Memory.read_of_lt (m := (k, b) :: m) (fun d hd => by
            rcases List.mem_cons.mp hd with rfl | hd
            · exact hgt
            · exact lt_trans hgt (h.1 d hd))] at this
          simp [Memory.read] at this
      subst hk
      have hb : b = b' := by simpa [Memory.read] using hr k
      subst hb
      congr 1
      refine ih h.2 h'.2 (fun x => ?_)
      by_cases hx : x = k
      · subst hx; rw [Memory.read_of_lt h.1, Memory.read_of_lt h'.1]
      · simpa [Memory.read, hx] using hr x

/-! Buffer reads. -/

@[simp] theorem State.length_bytes (s : State) (a n : Nat) : (s.bytes a n).length = n := by simp [State.bytes]

@[simp] theorem State.getElem_bytes (s : State) (a n i : Nat) (h : i < (s.bytes a n).length) :
    (s.bytes a n)[i] = s.byteAt (a + i) := by simp [State.bytes]

/-- A byte after bytes were written: the written one inside them, the old one outside. -/
theorem State.byteAt_writeBytes :
    ({ s with mem := s.mem.writeBytes a bs } : State).byteAt x
      = if a ≤ x ∧ x < a + bs.length then bs.getD (x - a) 0#8 else s.byteAt x := by
  simp only [State.byteAt, Memory.read_writeBytes]
  split
  · rw [List.getD_eq_getElem?_getD]
    rename_i h
    rw [List.getElem?_eq_getElem (by omega)]
    rfl
  · rfl

theorem State.bytes_congr {t : State} {n : Nat} (h : ∀ i < n, t.byteAt (a + i) = s.byteAt (a + i)) :
    t.bytes a n = s.bytes a n := by
  simp only [State.bytes]
  exact List.map_congr_left (fun i hi => h i (List.mem_range.mp hi))

/-- What was written is what is read back. -/
theorem State.bytes_of_written {t : State}
    (h : ∀ i < bs.length, t.byteAt (a + i) = bs.getD i 0#8) : t.bytes a bs.length = bs := by
  refine List.ext_getElem (by simp) (fun i h1 h2 => ?_)
  rw [State.getElem_bytes, h i h2, List.getD_eq_getElem _ _ h2]

end Sys2Proof.Machine
end

