-- ==== Sys2Proof/Laws/Operands.lean ====
section
/-! SUPPORT. The block view of byte strings: byte order, padding, blocks and back. -/

namespace Sys2Proof.Machine

/-! Byte order. -/

@[simp] theorem be32_unbe32 (w : Word) :
    be32 (w.extractLsb' 24 8) (w.extractLsb' 16 8) (w.extractLsb' 8 8) (w.extractLsb' 0 8) = w := by
  apply BitVec.eq_of_getLsbD_eq
  intro i hi
  interval_cases i <;> simp [be32]

@[simp] theorem unbe32_be32 (a b c d : Byte) : unbe32 (be32 a b c d) = [a, b, c, d] := by
  simp only [unbe32, be32, List.cons.injEq, and_true]
  refine ⟨?_, ?_, ?_, ?_⟩ <;> apply BitVec.eq_of_getLsbD_eq <;> intro i hi <;> interval_cases i <;> simp

@[simp] theorem length_unbe32 (w : Word) : (unbe32 w).length = 4 := rfl

@[simp] theorem length_blockBytes (b : Block) : (blockBytes b).length = 8 := rfl

theorem toNat_be32 (a b c d : Byte) :
    (be32 a b c d).toNat = a.toNat * 2 ^ 24 + b.toNat * 2 ^ 16 + c.toNat * 2 ^ 8 + d.toNat := by
  have h1 : (a.setWidth 32 <<< 24 ||| b.setWidth 32 <<< 16) = a.setWidth 32 <<< 24 + b.setWidth 32 <<< 16 := by
    rw [BitVec.add_eq_or_of_and_eq_zero]
    apply BitVec.eq_of_getLsbD_eq; intro i hi; interval_cases i <;> simp
  have h2 : (a.setWidth 32 <<< 24 ||| b.setWidth 32 <<< 16 ||| c.setWidth 32 <<< 8)
      = a.setWidth 32 <<< 24 + b.setWidth 32 <<< 16 + c.setWidth 32 <<< 8 := by
    rw [← h1, BitVec.add_eq_or_of_and_eq_zero]
    apply BitVec.eq_of_getLsbD_eq; intro i hi; interval_cases i <;> simp
  have h3 : be32 a b c d = a.setWidth 32 <<< 24 + b.setWidth 32 <<< 16 + c.setWidth 32 <<< 8 + d.setWidth 32 := by
    rw [be32, ← h2, BitVec.add_eq_or_of_and_eq_zero]
    apply BitVec.eq_of_getLsbD_eq; intro i hi; interval_cases i <;> simp
  have := a.isLt; have := b.isLt; have := c.isLt; have := d.isLt
  rw [h3]
  simp only [BitVec.toNat_add, BitVec.toNat_shiftLeft, BitVec.toNat_setWidth, Nat.shiftLeft_eq]
  omega

theorem unbe32_inj {v w : Word} (h : unbe32 v = unbe32 w) : v = w := by
  rw [← be32_unbe32 v, ← be32_unbe32 w]
  simp only [unbe32, List.cons.injEq, and_true] at h
  obtain ⟨h1, h2, h3, h4⟩ := h
  rw [h1, h2, h3, h4]

/-! Padding. -/

theorem le_pad8 (n : Nat) : n ≤ pad8 n := by unfold pad8; omega

theorem pad8_dvd (n : Nat) : 8 ∣ pad8 n := ⟨(n + 7) / 8, by unfold pad8; omega⟩

theorem pad8_lt (n : Nat) : pad8 n < n + 8 := by unfold pad8; omega

theorem pad8_of_dvd {n : Nat} (h : 8 ∣ n) : pad8 n = n := by unfold pad8; omega

theorem pad8_le {n m : Nat} (h : n ≤ m) (hm : 8 ∣ m) : pad8 n ≤ m := by unfold pad8; omega

@[simp] theorem length_zeroPad (src : List Byte) : (zeroPad src).length = pad8 src.length := by
  have := le_pad8 src.length
  simp [zeroPad]; omega

theorem zeroPad_of_dvd {src : List Byte} (h : 8 ∣ src.length) : zeroPad src = src := by
  simp [zeroPad, pad8_of_dvd h]

theorem getD_zeroPad (src : List Byte) (i : Nat) : (zeroPad src).getD i 0#8 = src.getD i 0#8 := by
  simp only [zeroPad, List.getD_eq_getElem?_getD, List.getElem?_append, List.getElem?_replicate]
  split
  · rfl
  · rw [List.getElem?_eq_none (by omega)]
    split <;> rfl

/-! Blocks. -/

@[simp] theorem blocks_nil : blocks [] = [] := rfl

theorem blocks_blockBytes_append (b : Block) (rest : List Byte) :
    blocks (blockBytes b ++ rest) = b :: blocks rest := by
  simp [blockBytes, unbe32, blocks]

@[simp] theorem blocks_bytesOf (bs : List Block) : blocks (bytesOf bs) = bs := by
  induction bs with
  | nil => rfl
  | cons b bs ih =>
    simp only [bytesOf, List.flatMap_cons] at *
    rw [blocks_blockBytes_append, ih]

@[simp] theorem length_bytesOf (bs : List Block) : (bytesOf bs).length = 8 * bs.length := by
  induction bs with
  | nil => rfl
  | cons b bs ih =>
    simp only [bytesOf, List.flatMap_cons, List.length_append, List.length_cons, length_blockBytes] at *
    omega

@[simp] theorem bytesOf_cons (b : Block) (bs : List Block) : bytesOf (b :: bs) = blockBytes b ++ bytesOf bs := rfl

@[simp] theorem bytesOf_nil : bytesOf [] = [] := rfl

theorem bytesOf_append (bs cs : List Block) : bytesOf (bs ++ cs) = bytesOf bs ++ bytesOf cs := by
  simp [bytesOf]

/-- Every byte string whose length is a multiple of 8 is the bytes of its blocks. -/
theorem bytesOf_blocks {src : List Byte} (h : 8 ∣ src.length) : bytesOf (blocks src) = src := by
  induction src using blocks.induct with
  | case1 a0 a1 a2 a3 b0 b1 b2 b3 rest ih =>
    have h' : 8 ∣ rest.length := by simp only [List.length_cons] at h; omega
    simp only [blocks, bytesOf_cons, ih h', blockBytes, unbe32_be32]
    rfl
  | case2 src hne =>
    match src, h, hne with
    | [], _, _ => rfl
    | [_], h, _ => simp at h
    | [_, _], h, _ => simp at h
    | [_, _, _], h, _ => simp at h
    | [_, _, _, _], h, _ => simp at h
    | [_, _, _, _, _], h, _ => simp at h
    | [_, _, _, _, _, _], h, _ => simp at h
    | [_, _, _, _, _, _, _], h, _ => simp at h
    | _ :: _ :: _ :: _ :: _ :: _ :: _ :: _ :: _, _, hne => exact absurd rfl (hne _ _ _ _ _ _ _ _ _)

theorem blocks_append {a b : List Byte} (h : 8 ∣ a.length) : blocks (a ++ b) = blocks a ++ blocks b := by
  have key : ∀ bs : List Block, blocks (bytesOf bs ++ b) = bs ++ blocks b := by
    intro bs
    induction bs with
    | nil => rfl
    | cons c bs ih => rw [bytesOf_cons, List.append_assoc, blocks_blockBytes_append, ih, List.cons_append]
  conv_lhs => rw [← bytesOf_blocks h]
  exact key _

@[simp] theorem length_blocks_zeroPad (src : List Byte) : (blocks (zeroPad src)).length = pad8 src.length / 8 := by
  have h := congrArg List.length (bytesOf_blocks (src := zeroPad src) (by simpa using pad8_dvd _))
  simp only [length_bytesOf, length_zeroPad] at h
  omega

theorem length_blocks {src : List Byte} (h : 8 ∣ src.length) : (blocks src).length = src.length / 8 := by
  have := congrArg List.length (bytesOf_blocks h)
  simp only [length_bytesOf] at this
  omega

/-- Block `j` of a byte string, by the index of its bytes (10_state.md R33). -/
theorem getElem?_blocks {src : List Byte} {j : Nat} (h : 8 * j + 8 ≤ src.length) :
    (blocks src)[j]? = some
      { l := be32 (src.getD (8 * j) 0#8) (src.getD (8 * j + 1) 0#8) (src.getD (8 * j + 2) 0#8)
          (src.getD (8 * j + 3) 0#8)
        r := be32 (src.getD (8 * j + 4) 0#8) (src.getD (8 * j + 5) 0#8) (src.getD (8 * j + 6) 0#8)
          (src.getD (8 * j + 7) 0#8) } := by
  induction src using blocks.induct generalizing j with
  | case1 a0 a1 a2 a3 b0 b1 b2 b3 rest ih =>
    cases j with
    | zero => simp [blocks]
    | succ j =>
      simp only [List.length_cons] at h
      have ih := ih (j := j) (by omega)
      simp only [blocks, List.getElem?_cons_succ, ih]
      rfl
  | case2 src hne =>
    match src, h, hne with
    | [], h, _ => simp at h
    | [_], h, _ => simp at h
    | [_, _], h, _ => simp at h
    | [_, _, _], h, _ => simp at h
    | [_, _, _, _], h, _ => simp at h
    | [_, _, _, _, _], h, _ => simp at h
    | [_, _, _, _, _, _], h, _ => simp at h
    | [_, _, _, _, _, _, _], h, _ => simp at h
    | _ :: _ :: _ :: _ :: _ :: _ :: _ :: _ :: _, _, hne => exact absurd rfl (hne _ _ _ _ _ _ _ _ _)

/-- Byte `i` of block `j` among the bytes of blocks (43_modes_and_iv.md R141). -/
theorem getD_bytesOf {bs : List Block} {j i : Nat} {b : Block} (hb : bs[j]? = some b) (hi : i < 8) :
    (bytesOf bs).getD (8 * j + i) 0#8 = (blockBytes b).getD i 0#8 := by
  induction bs generalizing j with
  | nil => simp at hb
  | cons c bs ih =>
    simp only [List.getD_eq_getElem?_getD] at *
    cases j with
    | zero =>
      obtain rfl : c = b := by simpa using hb
      rw [bytesOf_cons, List.getElem?_append_left (by simp; omega)]
      simp
    | succ j =>
      rw [bytesOf_cons, List.getElem?_append_right (by simp; omega)]
      have := ih (j := j) (by simpa using hb)
      rw [← this]; congr 2; simp; omega

end Sys2Proof.Machine
end

