-- ==== Sys2Proof/Laws/Modes.lean ====
section
/-! SUPPORT. What ECB and CBC make of a byte string: lengths, blocks by index, and the chain. -/

namespace Sys2Proof.Machine

variable {f g : Block → Block} {c : Block} {bs cs : List Block} {src : List Byte}

@[simp] theorem length_ecb : (ecb f src).length = pad8 src.length := by
  obtain ⟨k, hk⟩ := pad8_dvd src.length
  simp [ecb, hk]

/-- ECB's output is the bytes of the blocks' images. -/
theorem blocks_ecb : blocks (ecb f src) = (blocks (zeroPad src)).map f := by simp [ecb]

@[simp] theorem cbcEncrypt_nil : cbcEncrypt f c [] = ([], c) := rfl

@[simp] theorem cbcDecrypt_nil : cbcDecrypt f c [] = ([], c) := rfl

@[simp] theorem length_cbcEncrypt : (cbcEncrypt f c bs).1.length = bs.length := by
  induction bs generalizing c with
  | nil => rfl
  | cons b bs ih => simp [cbcEncrypt, ih]

@[simp] theorem length_cbcDecrypt : (cbcDecrypt f c bs).1.length = bs.length := by
  induction bs generalizing c with
  | nil => rfl
  | cons b bs ih => simp [cbcDecrypt, ih]

/-- Encryption of joined inputs: the second continues from the chain value that the first left
(43_modes_and_iv.md R152). -/
theorem cbcEncrypt_append : cbcEncrypt f c (bs ++ cs) =
    ((cbcEncrypt f c bs).1 ++ (cbcEncrypt f (cbcEncrypt f c bs).2 cs).1, (cbcEncrypt f (cbcEncrypt f c bs).2 cs).2) := by
  induction bs generalizing c with
  | nil => rfl
  | cons b bs ih => simp [cbcEncrypt, ih]

/-- Decryption of joined inputs: the second continues from the chain value that the first left
(43_modes_and_iv.md R152). -/
theorem cbcDecrypt_append : cbcDecrypt f c (bs ++ cs) =
    ((cbcDecrypt f c bs).1 ++ (cbcDecrypt f (cbcDecrypt f c bs).2 cs).1, (cbcDecrypt f (cbcDecrypt f c bs).2 cs).2) := by
  induction bs generalizing c with
  | nil => rfl
  | cons b bs ih => simp [cbcDecrypt, ih]

/-- Ciphertext block `j`, from the plaintext block and the ciphertext block before it (43_modes_and_iv.md R150). -/
theorem getElem?_cbcEncrypt (j : Nat) : (cbcEncrypt f c bs).1[j]? = (bs[j]?).map (fun b =>
    f (blockXor b (if j = 0 then c else (cbcEncrypt f c bs).1.getD (j - 1) c))) := by
  induction bs generalizing c j with
  | nil => simp
  | cons b bs ih =>
    cases j with
    | zero => simp [cbcEncrypt]
    | succ j =>
      simp only [cbcEncrypt, List.getElem?_cons_succ, ih, Nat.add_eq_zero_iff, one_ne_zero, and_false, if_false,
        Nat.add_sub_cancel]
      by_cases hj : j < bs.length
      · simp only [List.getElem?_eq_getElem hj, Option.map_some]
        cases j with
        | zero => simp
        | succ j =>
          simp only [Nat.add_eq_zero_iff, one_ne_zero, and_false, if_false, Nat.add_sub_cancel, List.getD_cons_succ]
          rw [List.getD_eq_getElem _ _ (by simp; omega), List.getD_eq_getElem _ _ (by simp; omega)]
      · simp [List.getElem?_eq_none (Nat.le_of_not_lt hj)]

/-- The last chain value of encryption: the last ciphertext block (43_modes_and_iv.md R150). -/
theorem cbcEncrypt_chain : (cbcEncrypt f c bs).2 = (cbcEncrypt f c bs).1.getLastD c := by
  induction bs generalizing c with
  | nil => rfl
  | cons b bs ih => simp [cbcEncrypt, ih, List.getLast?_cons]

/-- Plaintext block `j`, from the ciphertext block and the one before it (43_modes_and_iv.md R151). -/
theorem getElem?_cbcDecrypt (j : Nat) : (cbcDecrypt f c bs).1[j]? = (bs[j]?).map (fun b =>
    blockXor (f b) (if j = 0 then c else bs.getD (j - 1) c)) := by
  induction bs generalizing c j with
  | nil => simp
  | cons b bs ih =>
    cases j with
    | zero => simp [cbcDecrypt]
    | succ j =>
      simp only [cbcDecrypt, List.getElem?_cons_succ, ih, Nat.add_eq_zero_iff, one_ne_zero, and_false, if_false,
        Nat.add_sub_cancel]
      by_cases hj : j < bs.length
      · simp only [List.getElem?_eq_getElem hj, Option.map_some]
        cases j with
        | zero => simp
        | succ j =>
          simp only [Nat.add_eq_zero_iff, one_ne_zero, and_false, if_false, Nat.add_sub_cancel, List.getD_cons_succ]
          rw [List.getD_eq_getElem _ _ (by omega), List.getD_eq_getElem _ _ (by omega)]
      · simp [List.getElem?_eq_none (Nat.le_of_not_lt hj)]

/-- The last chain value of decryption: the last ciphertext block (43_modes_and_iv.md R151). -/
theorem cbcDecrypt_chain : (cbcDecrypt f c bs).2 = bs.getLastD c := by
  induction bs generalizing c with
  | nil => rfl
  | cons b bs ih => simp [cbcDecrypt, ih, List.getLast?_cons]

@[simp] theorem blockXor_cancel (a b : Block) : blockXor (blockXor a b) b = a := by
  cases a; cases b
  simp [blockXor]

/-- Decryption under the inverse block function gives the plaintext blocks back, from the same chain value. -/
theorem cbcDecrypt_cbcEncrypt (h : ∀ b, g (f b) = b) : (cbcDecrypt g c (cbcEncrypt f c bs).1).1 = bs := by
  induction bs generalizing c with
  | nil => rfl
  | cons b bs ih => simp [cbcEncrypt, cbcDecrypt, h, ih]

end Sys2Proof.Machine
end

