-- ==== Sys2Proof/Laws/Base64.lean ====
section
/-! SUPPORT. What the base64 functions make: alphabets and their inverses, lengths, one group, one word. -/

namespace Sys2Proof.Machine

/-! The standard alphabet. -/

@[simp] theorem stdVal_stdChar : ∀ v : BitVec 6, stdVal (stdChar v) = some v := by decide

@[simp] theorem stdChar_ne_padChar : ∀ v : BitVec 6, stdChar v ≠ padChar := by decide

@[simp] theorem significant_stdChar (v : BitVec 6) : significant (stdChar v) = true := by simp [significant]

@[simp] theorem significant_padChar : significant padChar = true := by decide

@[simp] theorem significant_lineFeed : significant lineFeed = false := by decide

@[simp] theorem valOrZero_stdChar (v : BitVec 6) : valOrZero (stdChar v) = v := by simp [valOrZero]

@[simp] theorem valOrZero_padChar : valOrZero padChar = 0#6 := by decide

theorem toNat_be24 (a b c : Byte) : (be24 a b c).toNat = a.toNat * 65536 + b.toNat * 256 + c.toNat := by
  have h1 : (a.setWidth 24 <<< 16 ||| b.setWidth 24 <<< 8) = a.setWidth 24 <<< 16 + b.setWidth 24 <<< 8 := by
    rw [BitVec.add_eq_or_of_and_eq_zero]
    apply BitVec.eq_of_getLsbD_eq; intro i hi; interval_cases i <;> simp
  have h2 : (be24 a b c) = a.setWidth 24 <<< 16 + b.setWidth 24 <<< 8 + c.setWidth 24 := by
    rw [be24, ← h1, BitVec.add_eq_or_of_and_eq_zero]
    apply BitVec.eq_of_getLsbD_eq; intro i hi; interval_cases i <;> simp
  have := a.isLt; have := b.isLt; have := c.isLt
  rw [h2]
  simp only [BitVec.toNat_add, BitVec.toNat_shiftLeft, BitVec.toNat_setWidth, Nat.shiftLeft_eq]
  omega

/-- The six bits from bit `k` up, as a number. -/
theorem toNat_sixBits (w : BitVec 24) (k : Nat) : (w.extractLsb' k 6).toNat = w.toNat / 2 ^ k % 64 := by
  simp [BitVec.extractLsb'_toNat, Nat.shiftRight_eq_div_pow]

theorem toNat_groupWord (c0 c1 c2 c3 : Byte) : (groupWord c0 c1 c2 c3).toNat =
    (valOrZero c0).toNat * 2 ^ 18 + (valOrZero c1).toNat * 2 ^ 12 + (valOrZero c2).toNat * 2 ^ 6
      + (valOrZero c3).toNat := by
  have := (valOrZero c0).isLt; have := (valOrZero c1).isLt; have := (valOrZero c2).isLt; have := (valOrZero c3).isLt
  simp only [groupWord, BitVec.toNat_add, BitVec.toNat_shiftLeft, BitVec.toNat_setWidth, Nat.shiftLeft_eq]
  omega

/-- The value of the four characters of a 24-bit value is that value (44_base64.md R171, R174). -/
theorem groupWord_stdQuad (w : BitVec 24) :
    groupWord (stdChar (w.extractLsb' 18 6)) (stdChar (w.extractLsb' 12 6)) (stdChar (w.extractLsb' 6 6))
      (stdChar (w.extractLsb' 0 6)) = w := by
  apply BitVec.eq_of_toNat_eq
  have := w.isLt
  simp only [toNat_groupWord, valOrZero_stdChar, toNat_sixBits]
  omega

theorem unbe24_be24 (a b c : Byte) : unbe24 (be24 a b c) = [a, b, c] := by
  have hw := toNat_be24 a b c
  have ha := a.isLt; have hb := b.isLt; have hc := c.isLt
  simp only [unbe24, List.cons.injEq, and_true]
  refine ⟨?_, ?_, ?_⟩ <;> apply BitVec.eq_of_toNat_eq <;>
    simp only [BitVec.extractLsb'_toNat, hw, Nat.shiftRight_eq_div_pow] <;> omega

/-- Where the third byte is 0 the last six bits are, so '=' may stand for them. -/
theorem be24_sixBits_zero (a b : Byte) : (be24 a b 0#8).extractLsb' 0 6 = 0#6 := by
  apply BitVec.eq_of_toNat_eq
  rw [toNat_sixBits, toNat_be24]
  simp; omega

theorem be24_sixBits_zero' (a : Byte) : (be24 a 0#8 0#8).extractLsb' 6 6 = 0#6 := by
  apply BitVec.eq_of_toNat_eq
  rw [toNat_sixBits, toNat_be24]
  simp; omega

@[simp] theorem length_b64 (src : List Byte) : (b64 src).length = 4 * ((src.length + 2) / 3) := by
  induction src using b64.induct with
  | case1 t0 t1 t2 rest ih => simp only [b64, stdQuad, List.length_append, List.length_cons, List.length_nil, ih]; omega
  | case2 => simp [b64, stdQuad]
  | case3 => simp [b64, stdQuad]
  | case4 => simp [b64]

theorem length_wrapFrom (room : Nat) (e : List Byte) (h : room ≤ 76) :
    (wrapFrom room e).length = e.length + (e.length + (76 - room) - 1) / 76 := by
  induction e generalizing room with
  | nil => simp [wrapFrom]; omega
  | cons c cs ih =>
    cases room with
    | zero =>
      have := ih (Config.b64Line - 1) (by decide)
      simp only [Config.b64Line] at this
      simp only [wrapFrom, List.length_cons, Config.b64Line, this]; omega
    | succ room => simp only [wrapFrom, List.length_cons, ih room (by omega)]; omega

@[simp] theorem length_wrap76 (e : List Byte) : (wrap76 e).length = e.length + (e.length - 1) / 76 := by
  rw [wrap76, length_wrapFrom _ _ (by decide)]; simp [Config.b64Line]

/-- A line feed is not significant, so wrapping does not change what decoding keeps (44_base64.md R173, R174). -/
theorem filter_wrapFrom (p : Byte → Bool) (hp : p lineFeed = false) (room : Nat) (e : List Byte) :
    (wrapFrom room e).filter p = e.filter p := by
  induction e generalizing room with
  | nil => cases room <;> rfl
  | cons c cs ih => cases room <;> simp [wrapFrom, hp, List.filter_cons, ih]

theorem length_decodeGroups {t out : List Byte} (h : decodeGroups t = some out) : out.length ≤ 3 * (t.length / 4) := by
  induction t using decodeGroups.induct generalizing out with
  | case1 c0 c1 c2 c3 rest hq => simp [decodeGroups, hq] at h
  | case2 c0 c1 c2 c3 rest q hq hr => simp only [decodeGroups, hq, if_pos hr] at h; cases h
  | case3 c0 c1 c2 c3 rest q hq hr ih =>
    simp only [decodeGroups, hq, if_neg hr, Option.map_eq_some_iff] at h
    obtain ⟨o, ho, rfl⟩ := h
    have h1 := ih ho
    have h2 : ((unbe24 (groupWord c0 c1 c2 c3)).take q).length ≤ 3 := by simp [unbe24]
    simp only [List.length_cons, List.length_append]; omega
  | case4 t ht => rw [decodeGroups] at h; · cases h; simp
                  · exact ht

theorem length_completeGroups {strict : Bool} {sig full : List Byte} (h : completeGroups strict sig = some full) :
    full.length ≤ sig.length + 3 := by
  unfold completeGroups at h
  split at h
  · cases h; omega
  · cases h
  · rename_i h0 _
    have := Nat.pos_of_ne_zero h0
    split at h
    · cases h
    · cases h
      simp only [List.length_append, List.length_replicate]
      omega

/-- Decoding makes at most three bytes of four characters (44_base64.md R175). -/
theorem length_b64dec {t out : List Byte} {strict : Bool} (h : b64dec t strict = some out) :
    out.length ≤ 3 * ((t.length + 3) / 4) := by
  unfold b64dec at h
  split at h
  · cases h
  · obtain ⟨full, hf, hd⟩ := Option.bind_eq_some_iff.mp h
    have h1 := length_decodeGroups hd
    have h2 := length_completeGroups hf
    have h3 := List.length_filter_le significant t
    omega

/-! The legacy dialect. -/

@[simp] theorem legVal_legChar : ∀ v : BitVec 6, legVal (legChar v) = v := by decide

@[simp] theorem legChar_ne_zero : ∀ v : BitVec 6, legChar v ≠ 0x00#8 := by decide

@[simp] theorem length_legWord (w : Word) : (legWord w).length = 6 := rfl

@[simp] theorem length_legEncBlock (b : Block) : (legEncBlock b).length = 12 := rfl

theorem length_flatMap_legEncBlock (bs : List Block) : (bs.flatMap legEncBlock).length = 12 * bs.length := by
  induction bs with
  | nil => rfl
  | cons b bs ih => rw [List.flatMap_cons, List.length_append, ih, length_legEncBlock, List.length_cons]; omega

@[simp] theorem length_legEnc (src : List Byte) : (legEnc src).length = 12 * (pad8 src.length / 8) := by
  rw [legEnc, length_flatMap_legEncBlock, length_blocks_zeroPad]

theorem toNat_legWordOf (v0 v1 v2 v3 v4 v5 : BitVec 6) : (legWordOf v0 v1 v2 v3 v4 v5).toNat =
    (v0.toNat + v1.toNat * 2 ^ 6 + v2.toNat * 2 ^ 12 + v3.toNat * 2 ^ 18 + v4.toNat * 2 ^ 24 + v5.toNat * 2 ^ 30)
      % 2 ^ 32 := by
  have := v0.isLt; have := v1.isLt; have := v2.isLt; have := v3.isLt; have := v4.isLt; have := v5.isLt
  simp only [legWordOf, BitVec.toNat_add, BitVec.toNat_shiftLeft, BitVec.toNat_setWidth, Nat.shiftLeft_eq]
  omega

/-- The six values of a word make the word (44_base64.md R181, R183). -/
theorem legWordOf_fields (w : Word) :
    legWordOf ((w >>> 0).setWidth 6) ((w >>> 6).setWidth 6) ((w >>> 12).setWidth 6) ((w >>> 18).setWidth 6)
      ((w >>> 24).setWidth 6) ((w >>> 30).setWidth 6) = w := by
  apply BitVec.eq_of_toNat_eq
  have := w.isLt
  simp only [toNat_legWordOf, BitVec.toNat_setWidth, BitVec.toNat_ushiftRight, Nat.shiftRight_eq_div_pow]
  omega

theorem length_legWords (v : List (BitVec 6)) : (legWords v).length = v.length / 6 := by
  induction v using legWords.induct with
  | case1 v0 v1 v2 v3 v4 v5 rest ih => simp only [legWords, List.length_cons, ih]; omega
  | case2 v hv =>
    match v, hv with
    | [], _ => rfl
    | [_], _ => simp [legWords]
    | [_, _], _ => simp [legWords]
    | [_, _, _], _ => simp [legWords]
    | [_, _, _, _], _ => simp [legWords]
    | [_, _, _, _, _], _ => simp [legWords]
    | _ :: _ :: _ :: _ :: _ :: _ :: _, hv => exact absurd rfl (hv _ _ _ _ _ _ _)

theorem length_legBlocks (ws : List Word) : (legBlocks ws).length = ws.length / 2 := by
  induction ws using legBlocks.induct with
  | case1 r l rest ih => simp only [legBlocks, List.length_cons, ih]; omega
  | case2 ws hws =>
    match ws, hws with
    | [], _ => rfl
    | [_], _ => simp [legBlocks]
    | _ :: _ :: _, hws => exact absurd rfl (hws _ _ _)

theorem length_pad12 (v : List (BitVec 6)) : (pad12 v).length = 12 * ((v.length + 11) / 12) := by
  simp only [pad12, List.length_append, List.length_replicate]; omega

/-- Eight bytes for each group of 12 that the input before its first zero byte begins (44_base64.md R183). -/
theorem length_legDec (t : List Byte) :
    (legDec t).length = 8 * (((t.takeWhile (fun c => c != 0x00#8)).length + 11) / 12) := by
  simp only [legDec, length_bytesOf, length_legBlocks, length_legWords, length_pad12, List.length_map]
  omega

theorem length_legDec_le (t : List Byte) : (legDec t).length ≤ 8 * ((t.length + 11) / 12) := by
  have : (t.takeWhile (fun c => c != 0x00#8)).length ≤ t.length := (List.takeWhile_prefix _).length_le
  rw [length_legDec]; omega

end Sys2Proof.Machine
end

