-- ==== Sys2Proof/Laws/Cipher.lean ====
section
/-! SUPPORT. What a round and the network do. -/

namespace Sys2Proof.Machine

variable {s : Vector (Vector Word 256) 4}

/-- A round with the left last subkey takes the network's output to that of the network with one round fewer, whose
last subkeys are the ones before. -/
theorem feistelRound_feistel (ks : List Word) (k kR kL : Word) (b : Block) :
    feistelRound s (feistel s (ks ++ [k]) kR kL b) kL = feistel s ks k kR b := by
  simp only [feistel, List.foldl_append, List.foldl_cons, List.foldl_nil]
  generalize ks.foldl (feistelRound s) b = x
  simp only [feistelRound, BitVec.xor_assoc, BitVec.xor_self, BitVec.xor_zero, Block.mk.injEq, and_true]
  rw [BitVec.xor_comm kR, ← BitVec.xor_assoc (feistelF _ _), BitVec.xor_self, BitVec.zero_xor]

theorem keyBytes_eq : Config.keyBytes = 80 := rfl

/-- The caps as numbers (41_block_cipher.md R104). -/
theorem keyCap_eq (cap56 : Bool) : keyCap cap56 = if cap56 then 56 else 80 := by cases cap56 <;> rfl

/-- The effective key byte by byte (41_block_cipher.md R104). -/
theorem effectiveKey_eq (st : State) (cap56 : Bool) : st.effectiveKey cap56 =
    (List.range (min st.keyLen.toNat (if cap56 then 56 else 80))).map (fun i => st.byteAt (keyOff + i)) := by
  rw [State.effectiveKey, keyCap_eq, State.key, State.bytes]

/-- Which key a schedule comes from is seen only through its cycled bytes (41_block_cipher.md R105). -/
theorem mixSubkeys_congr {init : Schedule} {k k' : List Byte} (h : ∀ j < 72, cycled k j = cycled k' j) :
    mixSubkeys init k = mixSubkeys init k' := by
  have hp : init.p.mapIdx (fun i w => w ^^^ keyChunk k i) = init.p.mapIdx (fun i w => w ^^^ keyChunk k' i) := by
    refine Vector.ext (fun i hi => ?_)
    simp only [Vector.getElem_mapIdx, keyChunk]
    rw [h _ (by omega), h _ (by omega), h _ (by omega), h _ (by omega)]
  simp only [mixSubkeys, hp]

end Sys2Proof.Machine
end

