-- ==== Sys2Proof/Laws/PerInstr.lean ====
section
/-! SUPPORT. What holds of each command as syntax: it is well-formed and its word decodes to it. -/

namespace Sys2Proof.Laws.Encoding

/-- The command is well-formed, and the decoder reads it back from its word (30_encoding.md R81 to R84). -/
def Statement (i : Instr) : Prop := i.wf = true ∧ decode (encode i) = .ok i

theorem nop : Statement .nop := by unfold Statement; decide
theorem keyInit (cap56 : Bool) : Statement (.keyInit cap56) := by unfold Statement; cases cap56 <;> decide
theorem encBlk : Statement .encBlk := by unfold Statement; decide
theorem decBlk : Statement .decBlk := by unfold Statement; decide
theorem ecbEnc : Statement .ecbEnc := by unfold Statement; decide
theorem ecbDec : Statement .ecbDec := by unfold Statement; decide
theorem cbcEnc (chs : ChainStart) (piv : Bool) : Statement (.cbcEnc chs piv) := by
  unfold Statement; cases chs <;> cases piv <;> decide
theorem cbcDec (chs : ChainStart) (drop : Bool) : Statement (.cbcDec chs drop) := by
  unfold Statement; cases chs <;> cases drop <;> decide
theorem ivGen : Statement .ivGen := by unfold Statement; decide
theorem b64Enc (wrap : Bool) : Statement (.b64Enc wrap) := by unfold Statement; cases wrap <;> decide
theorem b64Dec (strict : Bool) : Statement (.b64Dec strict) := by unfold Statement; cases strict <;> decide
theorem lb64Enc : Statement .lb64Enc := by unfold Statement; decide
theorem lb64Dec : Statement .lb64Dec := by unfold Statement; decide
theorem xfer : Statement .xfer := by unfold Statement; decide

end Sys2Proof.Laws.Encoding
end

