-- ==== Sys2Proof/Laws/Decode.lean ====
section
/-! SUPPORT. What the decoder does: every word is the fields that it is made of, and a word that decodes is one of the
encodings. -/

namespace Sys2Proof

/-- A word is its three fields (30_encoding.md R81). -/
theorem word_of_fields (v : Word) (h : v.extractLsb' 16 16 = 0#16) :
    v = (v.extractLsb' 8 8).setWidth 32 <<< 8 ||| (v.extractLsb' 0 8).setWidth 32 := by
  apply BitVec.eq_of_getLsbD_eq
  intro i hi
  by_cases h16 : i < 16
  · interval_cases i <;> simp
  · have hb : v.getLsbD i = (v.extractLsb' 16 16).getLsbD (i - 16) := by
      rw [BitVec.getLsbD_extractLsb', show 16 + (i - 16) = i by omega]
      simp; omega
    rw [hb, h]
    interval_cases i <;> simp_all

/-- The opcodes of the map are 0x00 to 0x0D (30_encoding.md R83). -/
theorem definedFlags_some {opc mask : BitVec 8} (h : definedFlags opc = some mask) : opc.toNat < 0x0E := by
  unfold definedFlags at h
  split at h <;> first | omega | simp at h

theorem flags_of_mask_zero : ∀ f : BitVec 8, f &&& ~~~0x00#8 = 0#8 → f = 0#8 := by decide

theorem flags_of_mask_one : ∀ f : BitVec 8, f &&& ~~~0x01#8 = 0#8 → f = 0#8 ∨ f = 1#8 := by decide

theorem flags_of_mask_seven : ∀ f : BitVec 8, f &&& ~~~0x07#8 = 0#8 →
    f = 0#8 ∨ f = 1#8 ∨ f = 2#8 ∨ f = 3#8 ∨ f = 4#8 ∨ f = 5#8 ∨ f = 6#8 ∨ f = 7#8 := by decide

/-- A legal word's fields encode the command that they decode to (30_encoding.md R83, R84). -/
theorem fields_of_instrOf {opc flags mask : BitVec 8} {i : Instr} (hm : definedFlags opc = some mask)
    (hf : flags &&& ~~~mask = 0#8) (hi : instrOf opc flags = .ok i) : flagsOf i = flags ∧ opcOf i = opc := by
  have hopc : opc = BitVec.ofNat 8 opc.toNat := by simp
  have hlt := definedFlags_some hm
  generalize opc.toNat = n at hopc hlt
  subst hopc
  interval_cases n <;> simp only [definedFlags, BitVec.toNat_ofNat] at hm <;>
    obtain rfl : _ = mask := Option.some.inj hm
  all_goals first
    | (obtain rfl := flags_of_mask_zero _ hf
       obtain rfl : _ = i := by simpa [instrOf] using hi
       decide)
    | (rcases flags_of_mask_one _ hf with rfl | rfl <;>
        (obtain rfl : _ = i := by simpa [instrOf] using hi) <;> decide)
    | (rcases flags_of_mask_seven _ hf with rfl | rfl | rfl | rfl | rfl | rfl | rfl | rfl <;>
        first
          | (obtain rfl : _ = i := by simpa [instrOf, chainStartOf] using hi
             decide)
          | simp [instrOf, chainStartOf] at hi)

/-- What the decoder accepts: no reserved bit, a row of the opcode map, no undefined flag, and the row's command. -/
theorem decode_ok {v : Word} {i : Instr} (h : decode v = .ok i) :
    v.extractLsb' 16 16 = 0#16 ∧ ∃ mask, definedFlags (v.extractLsb' 0 8) = some mask ∧
      v.extractLsb' 8 8 &&& ~~~mask = 0#8 ∧ instrOf (v.extractLsb' 0 8) (v.extractLsb' 8 8) = .ok i := by
  simp only [decode] at h
  split at h
  · cases h
  · rename_i hr
    split at h
    · cases h
    · rename_i mask hm
      split at h
      · cases h
      · rename_i hf
        exact ⟨not_not.mp hr, mask, hm, not_not.mp hf, h⟩

end Sys2Proof
end

