-- ==== Sys2Proof/Laws/State.lean ====
section
/-! SUPPORT. For each update of the state, what every field is after it. -/

namespace Sys2Proof.Machine

/-! finish. -/

@[simp] theorem State.finish_keyValid (s : State) (code : ResultCode) : (s.finish code).keyValid = s.keyValid := rfl
@[simp] theorem State.finish_seeded (s : State) (code : ResultCode) : (s.finish code).seeded = s.seeded := rfl
@[simp] theorem State.finish_busyErr (s : State) (code : ResultCode) : (s.finish code).busyErr = s.busyErr := rfl
@[simp] theorem State.finish_result (s : State) (code : ResultCode) : (s.finish code).result = code := rfl
@[simp] theorem State.finish_keyLen (s : State) (code : ResultCode) : (s.finish code).keyLen = s.keyLen := rfl
@[simp] theorem State.finish_inLen (s : State) (code : ResultCode) : (s.finish code).inLen = s.inLen := rfl
@[simp] theorem State.finish_outLen (s : State) (code : ResultCode) : (s.finish code).outLen = s.outLen := rfl
@[simp] theorem State.finish_time (s : State) (code : ResultCode) : (s.finish code).time = s.time := rfl
@[simp] theorem State.finish_ctr (s : State) (code : ResultCode) : (s.finish code).ctr = s.ctr := rfl
@[simp] theorem State.finish_ivL (s : State) (code : ResultCode) : (s.finish code).ivL = s.ivL := rfl
@[simp] theorem State.finish_ivR (s : State) (code : ResultCode) : (s.finish code).ivR = s.ivR := rfl
@[simp] theorem State.finish_chainL (s : State) (code : ResultCode) : (s.finish code).chainL = s.chainL := rfl
@[simp] theorem State.finish_chainR (s : State) (code : ResultCode) : (s.finish code).chainR = s.chainR := rfl
@[simp] theorem State.finish_blkL (s : State) (code : ResultCode) : (s.finish code).blkL = s.blkL := rfl
@[simp] theorem State.finish_blkR (s : State) (code : ResultCode) : (s.finish code).blkR = s.blkR := rfl
@[simp] theorem State.finish_mem (s : State) (code : ResultCode) : (s.finish code).mem = s.mem := rfl
@[simp] theorem State.finish_sched (s : State) (code : ResultCode) : (s.finish code).sched = s.sched := rfl
@[simp] theorem State.finish_sigma (s : State) (code : ResultCode) : (s.finish code).sigma = s.sigma := rfl
@[simp] theorem State.finish_latched (s : State) (code : ResultCode) : (s.finish code).latched = none := rfl
@[simp] theorem State.finish_wait (s : State) (code : ResultCode) : (s.finish code).wait = s.wait := rfl
@[simp] theorem State.finish_pending (s : State) (code : ResultCode) : (s.finish code).pending = s.pending := rfl
@[simp] theorem State.finish_replies (s : State) (code : ResultCode) : (s.finish code).replies = s.replies := rfl
@[simp] theorem State.finish_draws (s : State) (code : ResultCode) : (s.finish code).draws = s.draws := rfl
@[simp] theorem State.finish_resets (s : State) (code : ResultCode) : (s.finish code).resets = s.resets := rfl
@[simp] theorem State.finish_byteAt (s : State) (code : ResultCode) (x : Nat) : (s.finish code).byteAt x = s.byteAt x := rfl

/-! putOutput. -/

@[simp] theorem State.putOutput_keyValid (s : State) (out : List Byte) : (s.putOutput out).keyValid = s.keyValid := rfl
@[simp] theorem State.putOutput_seeded (s : State) (out : List Byte) : (s.putOutput out).seeded = s.seeded := rfl
@[simp] theorem State.putOutput_busyErr (s : State) (out : List Byte) : (s.putOutput out).busyErr = s.busyErr := rfl
@[simp] theorem State.putOutput_result (s : State) (out : List Byte) : (s.putOutput out).result = s.result := rfl
@[simp] theorem State.putOutput_keyLen (s : State) (out : List Byte) : (s.putOutput out).keyLen = s.keyLen := rfl
@[simp] theorem State.putOutput_inLen (s : State) (out : List Byte) : (s.putOutput out).inLen = s.inLen := rfl
@[simp] theorem State.putOutput_outLen (s : State) (out : List Byte) : (s.putOutput out).outLen = BitVec.ofNat 12 out.length := rfl
@[simp] theorem State.putOutput_time (s : State) (out : List Byte) : (s.putOutput out).time = s.time := rfl
@[simp] theorem State.putOutput_ctr (s : State) (out : List Byte) : (s.putOutput out).ctr = s.ctr := rfl
@[simp] theorem State.putOutput_ivL (s : State) (out : List Byte) : (s.putOutput out).ivL = s.ivL := rfl
@[simp] theorem State.putOutput_ivR (s : State) (out : List Byte) : (s.putOutput out).ivR = s.ivR := rfl
@[simp] theorem State.putOutput_chainL (s : State) (out : List Byte) : (s.putOutput out).chainL = s.chainL := rfl
@[simp] theorem State.putOutput_chainR (s : State) (out : List Byte) : (s.putOutput out).chainR = s.chainR := rfl
@[simp] theorem State.putOutput_blkL (s : State) (out : List Byte) : (s.putOutput out).blkL = s.blkL := rfl
@[simp] theorem State.putOutput_blkR (s : State) (out : List Byte) : (s.putOutput out).blkR = s.blkR := rfl
@[simp] theorem State.putOutput_mem (s : State) (out : List Byte) : (s.putOutput out).mem = s.mem.writeBytes obufOff out := rfl
@[simp] theorem State.putOutput_sched (s : State) (out : List Byte) : (s.putOutput out).sched = s.sched := rfl
@[simp] theorem State.putOutput_sigma (s : State) (out : List Byte) : (s.putOutput out).sigma = s.sigma := rfl
@[simp] theorem State.putOutput_latched (s : State) (out : List Byte) : (s.putOutput out).latched = s.latched := rfl
@[simp] theorem State.putOutput_wait (s : State) (out : List Byte) : (s.putOutput out).wait = s.wait := rfl
@[simp] theorem State.putOutput_pending (s : State) (out : List Byte) : (s.putOutput out).pending = s.pending := rfl
@[simp] theorem State.putOutput_replies (s : State) (out : List Byte) : (s.putOutput out).replies = s.replies := rfl
@[simp] theorem State.putOutput_draws (s : State) (out : List Byte) : (s.putOutput out).draws = s.draws := rfl
@[simp] theorem State.putOutput_resets (s : State) (out : List Byte) : (s.putOutput out).resets = s.resets := rfl
@[simp] theorem State.putOutput_busy (s : State) (out : List Byte) : (s.putOutput out).busy = s.busy := rfl

/-! putChain. -/

@[simp] theorem State.putChain_keyValid (s : State) (c : Block) : (s.putChain c).keyValid = s.keyValid := rfl
@[simp] theorem State.putChain_seeded (s : State) (c : Block) : (s.putChain c).seeded = s.seeded := rfl
@[simp] theorem State.putChain_busyErr (s : State) (c : Block) : (s.putChain c).busyErr = s.busyErr := rfl
@[simp] theorem State.putChain_result (s : State) (c : Block) : (s.putChain c).result = s.result := rfl
@[simp] theorem State.putChain_keyLen (s : State) (c : Block) : (s.putChain c).keyLen = s.keyLen := rfl
@[simp] theorem State.putChain_inLen (s : State) (c : Block) : (s.putChain c).inLen = s.inLen := rfl
@[simp] theorem State.putChain_outLen (s : State) (c : Block) : (s.putChain c).outLen = s.outLen := rfl
@[simp] theorem State.putChain_time (s : State) (c : Block) : (s.putChain c).time = s.time := rfl
@[simp] theorem State.putChain_ctr (s : State) (c : Block) : (s.putChain c).ctr = s.ctr := rfl
@[simp] theorem State.putChain_ivL (s : State) (c : Block) : (s.putChain c).ivL = s.ivL := rfl
@[simp] theorem State.putChain_ivR (s : State) (c : Block) : (s.putChain c).ivR = s.ivR := rfl
@[simp] theorem State.putChain_chainL (s : State) (c : Block) : (s.putChain c).chainL = c.l := rfl
@[simp] theorem State.putChain_chainR (s : State) (c : Block) : (s.putChain c).chainR = c.r := rfl
@[simp] theorem State.putChain_blkL (s : State) (c : Block) : (s.putChain c).blkL = s.blkL := rfl
@[simp] theorem State.putChain_blkR (s : State) (c : Block) : (s.putChain c).blkR = s.blkR := rfl
@[simp] theorem State.putChain_mem (s : State) (c : Block) : (s.putChain c).mem = s.mem := rfl
@[simp] theorem State.putChain_sched (s : State) (c : Block) : (s.putChain c).sched = s.sched := rfl
@[simp] theorem State.putChain_sigma (s : State) (c : Block) : (s.putChain c).sigma = s.sigma := rfl
@[simp] theorem State.putChain_latched (s : State) (c : Block) : (s.putChain c).latched = s.latched := rfl
@[simp] theorem State.putChain_wait (s : State) (c : Block) : (s.putChain c).wait = s.wait := rfl
@[simp] theorem State.putChain_pending (s : State) (c : Block) : (s.putChain c).pending = s.pending := rfl
@[simp] theorem State.putChain_replies (s : State) (c : Block) : (s.putChain c).replies = s.replies := rfl
@[simp] theorem State.putChain_draws (s : State) (c : Block) : (s.putChain c).draws = s.draws := rfl
@[simp] theorem State.putChain_resets (s : State) (c : Block) : (s.putChain c).resets = s.resets := rfl
@[simp] theorem State.putChain_byteAt (s : State) (c : Block) (x : Nat) : (s.putChain c).byteAt x = s.byteAt x := rfl
@[simp] theorem State.putChain_busy (s : State) (c : Block) : (s.putChain c).busy = s.busy := rfl

/-! reply. -/

@[simp] theorem State.reply_keyValid (s : State) (r : Reply) : (s.reply r).keyValid = s.keyValid := rfl
@[simp] theorem State.reply_seeded (s : State) (r : Reply) : (s.reply r).seeded = s.seeded := rfl
@[simp] theorem State.reply_busyErr (s : State) (r : Reply) : (s.reply r).busyErr = s.busyErr := rfl
@[simp] theorem State.reply_result (s : State) (r : Reply) : (s.reply r).result = s.result := rfl
@[simp] theorem State.reply_keyLen (s : State) (r : Reply) : (s.reply r).keyLen = s.keyLen := rfl
@[simp] theorem State.reply_inLen (s : State) (r : Reply) : (s.reply r).inLen = s.inLen := rfl
@[simp] theorem State.reply_outLen (s : State) (r : Reply) : (s.reply r).outLen = s.outLen := rfl
@[simp] theorem State.reply_time (s : State) (r : Reply) : (s.reply r).time = s.time := rfl
@[simp] theorem State.reply_ctr (s : State) (r : Reply) : (s.reply r).ctr = s.ctr := rfl
@[simp] theorem State.reply_ivL (s : State) (r : Reply) : (s.reply r).ivL = s.ivL := rfl
@[simp] theorem State.reply_ivR (s : State) (r : Reply) : (s.reply r).ivR = s.ivR := rfl
@[simp] theorem State.reply_chainL (s : State) (r : Reply) : (s.reply r).chainL = s.chainL := rfl
@[simp] theorem State.reply_chainR (s : State) (r : Reply) : (s.reply r).chainR = s.chainR := rfl
@[simp] theorem State.reply_blkL (s : State) (r : Reply) : (s.reply r).blkL = s.blkL := rfl
@[simp] theorem State.reply_blkR (s : State) (r : Reply) : (s.reply r).blkR = s.blkR := rfl
@[simp] theorem State.reply_mem (s : State) (r : Reply) : (s.reply r).mem = s.mem := rfl
@[simp] theorem State.reply_sched (s : State) (r : Reply) : (s.reply r).sched = s.sched := rfl
@[simp] theorem State.reply_sigma (s : State) (r : Reply) : (s.reply r).sigma = s.sigma := rfl
@[simp] theorem State.reply_latched (s : State) (r : Reply) : (s.reply r).latched = s.latched := rfl
@[simp] theorem State.reply_wait (s : State) (r : Reply) : (s.reply r).wait = s.wait := rfl
@[simp] theorem State.reply_pending (s : State) (r : Reply) : (s.reply r).pending = s.pending := rfl
@[simp] theorem State.reply_replies (s : State) (r : Reply) : (s.reply r).replies = s.replies ++ [r] := rfl
@[simp] theorem State.reply_draws (s : State) (r : Reply) : (s.reply r).draws = s.draws := rfl
@[simp] theorem State.reply_resets (s : State) (r : Reply) : (s.reply r).resets = s.resets := rfl
@[simp] theorem State.reply_byteAt (s : State) (r : Reply) (x : Nat) : (s.reply r).byteAt x = s.byteAt x := rfl
@[simp] theorem State.reply_busy (s : State) (r : Reply) : (s.reply r).busy = s.busy := rfl

/-! dropWrite. -/

@[simp] theorem State.dropWrite_keyValid (s : State) : (s.dropWrite).keyValid = s.keyValid := rfl
@[simp] theorem State.dropWrite_seeded (s : State) : (s.dropWrite).seeded = s.seeded := rfl
@[simp] theorem State.dropWrite_busyErr (s : State) : (s.dropWrite).busyErr = true := rfl
@[simp] theorem State.dropWrite_result (s : State) : (s.dropWrite).result = s.result := rfl
@[simp] theorem State.dropWrite_keyLen (s : State) : (s.dropWrite).keyLen = s.keyLen := rfl
@[simp] theorem State.dropWrite_inLen (s : State) : (s.dropWrite).inLen = s.inLen := rfl
@[simp] theorem State.dropWrite_outLen (s : State) : (s.dropWrite).outLen = s.outLen := rfl
@[simp] theorem State.dropWrite_time (s : State) : (s.dropWrite).time = s.time := rfl
@[simp] theorem State.dropWrite_ctr (s : State) : (s.dropWrite).ctr = s.ctr := rfl
@[simp] theorem State.dropWrite_ivL (s : State) : (s.dropWrite).ivL = s.ivL := rfl
@[simp] theorem State.dropWrite_ivR (s : State) : (s.dropWrite).ivR = s.ivR := rfl
@[simp] theorem State.dropWrite_chainL (s : State) : (s.dropWrite).chainL = s.chainL := rfl
@[simp] theorem State.dropWrite_chainR (s : State) : (s.dropWrite).chainR = s.chainR := rfl
@[simp] theorem State.dropWrite_blkL (s : State) : (s.dropWrite).blkL = s.blkL := rfl
@[simp] theorem State.dropWrite_blkR (s : State) : (s.dropWrite).blkR = s.blkR := rfl
@[simp] theorem State.dropWrite_mem (s : State) : (s.dropWrite).mem = s.mem := rfl
@[simp] theorem State.dropWrite_sched (s : State) : (s.dropWrite).sched = s.sched := rfl
@[simp] theorem State.dropWrite_sigma (s : State) : (s.dropWrite).sigma = s.sigma := rfl
@[simp] theorem State.dropWrite_latched (s : State) : (s.dropWrite).latched = s.latched := rfl
@[simp] theorem State.dropWrite_wait (s : State) : (s.dropWrite).wait = s.wait := rfl
@[simp] theorem State.dropWrite_pending (s : State) : (s.dropWrite).pending = s.pending := rfl
@[simp] theorem State.dropWrite_replies (s : State) : (s.dropWrite).replies = s.replies := rfl
@[simp] theorem State.dropWrite_draws (s : State) : (s.dropWrite).draws = s.draws := rfl
@[simp] theorem State.dropWrite_resets (s : State) : (s.dropWrite).resets = s.resets := rfl
@[simp] theorem State.dropWrite_byteAt (s : State) (x : Nat) : (s.dropWrite).byteAt x = s.byteAt x := rfl
@[simp] theorem State.dropWrite_busy (s : State) : (s.dropWrite).busy = s.busy := rfl

/-! writeStatus. -/

@[simp] theorem State.writeStatus_keyValid (s : State) (v : Word) : (s.writeStatus v).keyValid = s.keyValid := rfl
@[simp] theorem State.writeStatus_seeded (s : State) (v : Word) : (s.writeStatus v).seeded = s.seeded := rfl
@[simp] theorem State.writeStatus_busyErr (s : State) (v : Word) : (s.writeStatus v).busyErr = (s.busyErr && !v[3]) := rfl
@[simp] theorem State.writeStatus_result (s : State) (v : Word) : (s.writeStatus v).result = s.result := rfl
@[simp] theorem State.writeStatus_keyLen (s : State) (v : Word) : (s.writeStatus v).keyLen = s.keyLen := rfl
@[simp] theorem State.writeStatus_inLen (s : State) (v : Word) : (s.writeStatus v).inLen = s.inLen := rfl
@[simp] theorem State.writeStatus_outLen (s : State) (v : Word) : (s.writeStatus v).outLen = s.outLen := rfl
@[simp] theorem State.writeStatus_time (s : State) (v : Word) : (s.writeStatus v).time = s.time := rfl
@[simp] theorem State.writeStatus_ctr (s : State) (v : Word) : (s.writeStatus v).ctr = s.ctr := rfl
@[simp] theorem State.writeStatus_ivL (s : State) (v : Word) : (s.writeStatus v).ivL = s.ivL := rfl
@[simp] theorem State.writeStatus_ivR (s : State) (v : Word) : (s.writeStatus v).ivR = s.ivR := rfl
@[simp] theorem State.writeStatus_chainL (s : State) (v : Word) : (s.writeStatus v).chainL = s.chainL := rfl
@[simp] theorem State.writeStatus_chainR (s : State) (v : Word) : (s.writeStatus v).chainR = s.chainR := rfl
@[simp] theorem State.writeStatus_blkL (s : State) (v : Word) : (s.writeStatus v).blkL = s.blkL := rfl
@[simp] theorem State.writeStatus_blkR (s : State) (v : Word) : (s.writeStatus v).blkR = s.blkR := rfl
@[simp] theorem State.writeStatus_mem (s : State) (v : Word) : (s.writeStatus v).mem = s.mem := rfl
@[simp] theorem State.writeStatus_sched (s : State) (v : Word) : (s.writeStatus v).sched = s.sched := rfl
@[simp] theorem State.writeStatus_sigma (s : State) (v : Word) : (s.writeStatus v).sigma = s.sigma := rfl
@[simp] theorem State.writeStatus_latched (s : State) (v : Word) : (s.writeStatus v).latched = s.latched := rfl
@[simp] theorem State.writeStatus_wait (s : State) (v : Word) : (s.writeStatus v).wait = s.wait := rfl
@[simp] theorem State.writeStatus_pending (s : State) (v : Word) : (s.writeStatus v).pending = s.pending := rfl
@[simp] theorem State.writeStatus_replies (s : State) (v : Word) : (s.writeStatus v).replies = s.replies := rfl
@[simp] theorem State.writeStatus_draws (s : State) (v : Word) : (s.writeStatus v).draws = s.draws := rfl
@[simp] theorem State.writeStatus_resets (s : State) (v : Word) : (s.writeStatus v).resets = s.resets := rfl
@[simp] theorem State.writeStatus_byteAt (s : State) (v : Word) (x : Nat) : (s.writeStatus v).byteAt x = s.byteAt x := rfl
@[simp] theorem State.writeStatus_busy (s : State) (v : Word) : (s.writeStatus v).busy = s.busy := rfl

/-! issue. -/

@[simp] theorem State.issue_keyValid (s : State) (v : Word) : (s.issue v).keyValid = s.keyValid := rfl
@[simp] theorem State.issue_seeded (s : State) (v : Word) : (s.issue v).seeded = s.seeded := rfl
@[simp] theorem State.issue_busyErr (s : State) (v : Word) : (s.issue v).busyErr = s.busyErr := rfl
@[simp] theorem State.issue_result (s : State) (v : Word) : (s.issue v).result = s.result := rfl
@[simp] theorem State.issue_keyLen (s : State) (v : Word) : (s.issue v).keyLen = s.keyLen := rfl
@[simp] theorem State.issue_inLen (s : State) (v : Word) : (s.issue v).inLen = s.inLen := rfl
@[simp] theorem State.issue_outLen (s : State) (v : Word) : (s.issue v).outLen = s.outLen := rfl
@[simp] theorem State.issue_time (s : State) (v : Word) : (s.issue v).time = s.time := rfl
@[simp] theorem State.issue_ctr (s : State) (v : Word) : (s.issue v).ctr = s.ctr := rfl
@[simp] theorem State.issue_ivL (s : State) (v : Word) : (s.issue v).ivL = s.ivL := rfl
@[simp] theorem State.issue_ivR (s : State) (v : Word) : (s.issue v).ivR = s.ivR := rfl
@[simp] theorem State.issue_chainL (s : State) (v : Word) : (s.issue v).chainL = s.chainL := rfl
@[simp] theorem State.issue_chainR (s : State) (v : Word) : (s.issue v).chainR = s.chainR := rfl
@[simp] theorem State.issue_blkL (s : State) (v : Word) : (s.issue v).blkL = s.blkL := rfl
@[simp] theorem State.issue_blkR (s : State) (v : Word) : (s.issue v).blkR = s.blkR := rfl
@[simp] theorem State.issue_mem (s : State) (v : Word) : (s.issue v).mem = s.mem := rfl
@[simp] theorem State.issue_sched (s : State) (v : Word) : (s.issue v).sched = s.sched := rfl
@[simp] theorem State.issue_sigma (s : State) (v : Word) : (s.issue v).sigma = s.sigma := rfl
@[simp] theorem State.issue_latched (s : State) (v : Word) : (s.issue v).latched = some v := rfl
@[simp] theorem State.issue_wait (s : State) (v : Word) : (s.issue v).wait = Config.latency s.draws := rfl
@[simp] theorem State.issue_pending (s : State) (v : Word) : (s.issue v).pending = s.pending := rfl
@[simp] theorem State.issue_replies (s : State) (v : Word) : (s.issue v).replies = s.replies := rfl
@[simp] theorem State.issue_draws (s : State) (v : Word) : (s.issue v).draws = s.draws + 1 := rfl
@[simp] theorem State.issue_resets (s : State) (v : Word) : (s.issue v).resets = s.resets := rfl
@[simp] theorem State.issue_byteAt (s : State) (v : Word) (x : Nat) : (s.issue v).byteAt x = s.byteAt x := rfl

/-! latchCommand. -/

@[simp] theorem State.latchCommand_keyValid (s : State) (v : Word) : (s.latchCommand v).keyValid = s.keyValid := rfl
@[simp] theorem State.latchCommand_seeded (s : State) (v : Word) : (s.latchCommand v).seeded = s.seeded := rfl
@[simp] theorem State.latchCommand_busyErr (s : State) (v : Word) : (s.latchCommand v).busyErr = s.busyErr := rfl
@[simp] theorem State.latchCommand_result (s : State) (v : Word) : (s.latchCommand v).result = s.result := rfl
@[simp] theorem State.latchCommand_keyLen (s : State) (v : Word) : (s.latchCommand v).keyLen = s.keyLen := rfl
@[simp] theorem State.latchCommand_inLen (s : State) (v : Word) : (s.latchCommand v).inLen = s.inLen := rfl
@[simp] theorem State.latchCommand_outLen (s : State) (v : Word) : (s.latchCommand v).outLen = s.outLen := rfl
@[simp] theorem State.latchCommand_time (s : State) (v : Word) : (s.latchCommand v).time = s.time := rfl
@[simp] theorem State.latchCommand_ctr (s : State) (v : Word) : (s.latchCommand v).ctr = s.ctr := rfl
@[simp] theorem State.latchCommand_ivL (s : State) (v : Word) : (s.latchCommand v).ivL = s.ivL := rfl
@[simp] theorem State.latchCommand_ivR (s : State) (v : Word) : (s.latchCommand v).ivR = s.ivR := rfl
@[simp] theorem State.latchCommand_chainL (s : State) (v : Word) : (s.latchCommand v).chainL = s.chainL := rfl
@[simp] theorem State.latchCommand_chainR (s : State) (v : Word) : (s.latchCommand v).chainR = s.chainR := rfl
@[simp] theorem State.latchCommand_blkL (s : State) (v : Word) : (s.latchCommand v).blkL = s.blkL := rfl
@[simp] theorem State.latchCommand_blkR (s : State) (v : Word) : (s.latchCommand v).blkR = s.blkR := rfl
@[simp] theorem State.latchCommand_mem (s : State) (v : Word) : (s.latchCommand v).mem = s.mem := rfl
@[simp] theorem State.latchCommand_sched (s : State) (v : Word) : (s.latchCommand v).sched = s.sched := rfl
@[simp] theorem State.latchCommand_sigma (s : State) (v : Word) : (s.latchCommand v).sigma = s.sigma := rfl
@[simp] theorem State.latchCommand_latched (s : State) (v : Word) : (s.latchCommand v).latched = some v := rfl
@[simp] theorem State.latchCommand_wait (s : State) (v : Word) : (s.latchCommand v).wait = 0 := rfl
@[simp] theorem State.latchCommand_pending (s : State) (v : Word) : (s.latchCommand v).pending = s.pending := rfl
@[simp] theorem State.latchCommand_replies (s : State) (v : Word) : (s.latchCommand v).replies = s.replies := rfl
@[simp] theorem State.latchCommand_draws (s : State) (v : Word) : (s.latchCommand v).draws = s.draws := rfl
@[simp] theorem State.latchCommand_resets (s : State) (v : Word) : (s.latchCommand v).resets = s.resets := rfl
@[simp] theorem State.latchCommand_byteAt (s : State) (v : Word) (x : Nat) : (s.latchCommand v).byteAt x = s.byteAt x := rfl

@[simp] theorem State.finish_busy (s : State) (code : ResultCode) : (s.finish code).busy = false := rfl
@[simp] theorem State.issue_busy (s : State) (v : Word) : (s.issue v).busy = true := rfl
@[simp] theorem State.latchCommand_busy (s : State) (v : Word) : (s.latchCommand v).busy = true := rfl

/-! What a reset leaves of the fields that are outside the FBC, and that it unlists every buffer byte. -/

@[simp] theorem State.afterReset_pending (s : State) : s.afterReset.pending = s.pending := rfl
@[simp] theorem State.afterReset_replies (s : State) : s.afterReset.replies = s.replies := rfl
@[simp] theorem State.afterReset_draws (s : State) : s.afterReset.draws = s.draws := rfl
@[simp] theorem State.afterReset_resets (s : State) : s.afterReset.resets = s.resets + 1 := rfl
@[simp] theorem State.afterReset_mem (s : State) : s.afterReset.mem = [] := rfl
@[simp] theorem State.afterReset_busy (s : State) : s.afterReset.busy = false := rfl

end Sys2Proof.Machine
end

