-- ==== Sys2Proof/Laws/Exec.lean ====
section
/-! SUPPORT. What a command can do: every command completes, and its next state has one of a few forms. -/

namespace Sys2Proof.Machine

/-- What command `i` can make of `s` before RESULT and BUSY are written, with the code that it reports. -/
inductive Effect (s : State) : Instr → ResultCode → State → Prop where
  /-- An error of a command that does not write OBUF: nothing changes (60_exceptions.md R200). -/
  | failed {i : Instr} {code : ResultCode} (hi : writesOutput i = false) (h : code ≠ .ok) (h' : code ≠ .illegal) :
      Effect s i code s
  /-- An error of a command that writes OBUF: OUTLEN <- 0 (60_exceptions.md R200). -/
  | noOutput {i : Instr} {code : ResultCode} (hi : writesOutput i = true) (h : code ≠ .ok) (h' : code ≠ .illegal) :
      Effect s i code { s with outLen := 0#12 }
  | nop : Effect s .nop .ok s
  | keyInit (cap56 : Bool) :
      Effect s (.keyInit cap56) .ok { s with sched := schedule initTables (s.effectiveKey cap56), keyValid := true }
  | encBlk (b : Block) : Effect s .encBlk .ok { s with blkL := b.l, blkR := b.r }
  | decBlk (b : Block) : Effect s .decBlk .ok { s with blkL := b.l, blkR := b.r }
  /-- Output in OBUF and OUTLEN, and in CHAIN if the command is CBC_ENC or CBC_DEC. -/
  | output {i : Instr} (hi : writesOutput i = true) (out : List Byte) (h : out.length ≤ 2048) (c : Block)
      (hc : c = s.chain ∨ (∃ chs piv, i = .cbcEnc chs piv) ∨ ∃ chs drop, i = .cbcDec chs drop) :
      Effect s i .ok ((s.putOutput out).putChain c)
  | ivGen (sigma : Nat) (ivL ivR : Word) :
      Effect s .ivGen .ok { s with sigma := sigma, seeded := true, ivL := ivL, ivR := ivR, ctr := nextCtr s.ctr }
  | xfer (h : s.outLen.toNat ≤ 1024) : Effect s .xfer .ok
      { s with mem := s.mem.writeBytes ibufOff (s.obuf s.outLen.toNat), inLen := s.outLen }

variable {s t : State} {i : Instr}

@[simp] theorem length_input : s.input.length = s.inLen.toNat := by simp [State.input, State.ibuf]

/-- Byte `i` of the input, 0 beyond INLEN. -/
theorem getD_input (i : Nat) : s.input.getD i 0#8 = if i < s.inLen.toNat then s.byteAt (ibufOff + i) else 0#8 := by
  rw [List.getD_eq_getElem?_getD]
  split
  · rw [List.getElem?_eq_getElem (by simpa), Option.getD_some]
    exact State.getElem_bytes _ _ _ _ _
  · rw [List.getElem?_eq_none (by simp; omega), Option.getD_none]

/-- The bytes after an output: the output in OBUF, the old ones elsewhere (10_state.md R32). -/
theorem byteAt_putOutput (s : State) (out : List Byte) (a : Nat) : (s.putOutput out).byteAt a
    = if obufOff ≤ a ∧ a < obufOff + out.length then out.getD (a - obufOff) 0#8 else s.byteAt a :=
  State.byteAt_writeBytes

/-- An output's length fits OUTLEN. -/
theorem putOutput_outLen_toNat (s : State) {out : List Byte} (h : out.length ≤ 2048) :
    (s.putOutput out).outLen.toNat = out.length := by
  simp only [State.putOutput_outLen, BitVec.toNat_ofNat]
  omega

theorem inLenBad_iff : s.inLenBad = true ↔ 1024 < s.inLen.toNat := by simp [State.inLenBad, Config.ibufBytes]

@[simp] theorem inLenBad_of_le (h : s.inLen.toNat ≤ 1024) : s.inLenBad = false := by
  simp [State.inLenBad, Config.ibufBytes, h]

theorem pad8_le_of_inLen (h : s.inLenBad = false) : pad8 s.input.length ≤ 1024 := by
  rw [length_input]
  exact pad8_le (by simpa [State.inLenBad, Config.ibufBytes] using h) (by decide)

/-- Writing the chain that is there already changes nothing. -/
theorem putChain_chain (s : State) : s.putChain s.chain = s := rfl

theorem length_cbcSource (s : State) (piv : Bool) :
    (s.cbcSource piv).length = (if piv then 8 else 0) + s.inLen.toNat := by
  cases piv <;> simp [State.cbcSource]

/-- The block-mode commands with a key and INLEN in range. -/
theorem withKeyAndInput_ok (hk : s.keyValid = true) (hi : s.inLen.toNat ≤ 1024)
    (body : Host.Outcome State Fault Refusal) : withKeyAndInput s body = body := by
  simp [withKeyAndInput, hk, inLenBad_of_le hi]

theorem exec_ecbEnc (hk : s.keyValid = true) (hi : s.inLen.toNat ≤ 1024) :
    exec .ecbEnc s = .next ((s.putOutput (ecb (encipher s.sched) s.input)).finish .ok) :=
  withKeyAndInput_ok hk hi _

theorem exec_ecbDec (hk : s.keyValid = true) (hi : s.inLen.toNat ≤ 1024) :
    exec .ecbDec s = .next ((s.putOutput (ecb (decipher s.sched) s.input)).finish .ok) :=
  withKeyAndInput_ok hk hi _

theorem exec_cbcEnc (chs : ChainStart) (piv : Bool) (hk : s.keyValid = true) (hi : s.inLen.toNat ≤ 1024) :
    exec (.cbcEnc chs piv) s =
      (let out := cbcEncrypt (encipher s.sched) (s.chainStart chs) (blocks (zeroPad (s.cbcSource piv)))
       .next (((s.putOutput (bytesOf out.1)).putChain out.2).finish .ok)) :=
  withKeyAndInput_ok hk hi _

theorem exec_cbcDec (chs : ChainStart) (drop : Bool) (hk : s.keyValid = true) (hi : s.inLen.toNat ≤ 1024) :
    exec (.cbcDec chs drop) s =
      (let out := cbcDecrypt (decipher s.sched) (s.chainStart chs) (blocks (zeroPad s.input))
       let plain := bytesOf out.1
       .next (((s.putOutput (plain.drop (dropCount drop plain.length))).putChain out.2).finish .ok)) :=
  withKeyAndInput_ok hk hi _

/-- An output command without errors of its own, once it runs: the checks, and the output if they pass. -/
theorem withKeyAndInput_effect {out : List Byte} {c : Block} (hi : writesOutput i = true)
    (h : s.inLenBad = false → out.length ≤ 2048)
    (hc : c = s.chain ∨ (∃ chs piv, i = .cbcEnc chs piv) ∨ ∃ chs drop, i = .cbcDec chs drop) :
    ∃ t code, withKeyAndInput s (complete ((s.putOutput out).putChain c)) = .next (t.finish code) ∧
      Effect s i code t := by
  unfold withKeyAndInput
  split
  · exact ⟨_, _, rfl, .noOutput hi (by decide) (by decide)⟩
  · split
    · exact ⟨_, _, rfl, .noOutput hi (by decide) (by decide)⟩
    · exact ⟨_, _, rfl, .output hi _ (h (by simpa using ‹¬ s.inLenBad = true›)) _ hc⟩

theorem encodeCommand_effect {f : List Byte → List Byte} (hi : writesOutput i = true) :
    ∃ t code, encodeCommand f s = .next (t.finish code) ∧ Effect s i code t := by
  unfold encodeCommand
  split
  · exact ⟨_, _, rfl, .noOutput hi (by decide) (by decide)⟩
  · dsimp only
    split
    · exact ⟨_, _, rfl, .noOutput hi (by decide) (by decide)⟩
    · exact ⟨_, _, rfl, .output hi (f s.input) (Nat.le_of_not_gt ‹¬ _ > Config.obufBytes›) s.chain (.inl rfl)⟩

theorem blockCommand_effect {f : Schedule → Block → Block} (hi : writesOutput i = false)
    (hb : ∀ b : Block, Effect s i .ok { s with blkL := b.l, blkR := b.r }) :
    ∃ t code, blockCommand f s = .next (t.finish code) ∧ Effect s i code t := by
  unfold blockCommand
  split
  · exact ⟨_, _, rfl, hb _⟩
  · exact ⟨_, _, rfl, .failed hi (by decide) (by decide)⟩

/-- Every command completes, in one of the forms of `Effect`. -/
theorem exec_effect (i : Instr) (s : State) : ∃ t code, exec i s = .next (t.finish code) ∧ Effect s i code t := by
  cases i with
  | nop => exact ⟨_, _, rfl, .nop⟩
  | keyInit cap56 =>
    simp only [exec, execKeyInit]
    split
    · exact ⟨_, _, rfl, .failed rfl (by decide) (by decide)⟩
    · exact ⟨_, _, rfl, .keyInit cap56⟩
  | encBlk => exact blockCommand_effect rfl .encBlk
  | decBlk => exact blockCommand_effect rfl .decBlk
  | ecbEnc =>
    refine withKeyAndInput_effect rfl (fun h => ?_) (c := s.chain) (.inl rfl)
    have := pad8_le_of_inLen h
    rw [length_ecb]; omega
  | ecbDec =>
    refine withKeyAndInput_effect rfl (fun h => ?_) (c := s.chain) (.inl rfl)
    have := pad8_le_of_inLen h
    rw [length_ecb]; omega
  | cbcEnc chs piv =>
    refine withKeyAndInput_effect rfl (fun h => ?_) (.inr (.inl ⟨_, _, rfl⟩))
    have := pad8_le_of_inLen h
    have : pad8 (s.cbcSource piv).length ≤ 1032 := by
      rw [length_input] at this
      refine pad8_le ?_ (by decide)
      have := le_pad8 s.inLen.toNat
      rw [length_cbcSource]; split <;> omega
    rw [length_bytesOf, length_cbcEncrypt, length_blocks_zeroPad]; omega
  | cbcDec chs drop =>
    refine withKeyAndInput_effect rfl (fun h => ?_) (.inr (.inr ⟨_, _, rfl⟩))
    have := pad8_le_of_inLen h
    rw [List.length_drop, length_bytesOf, length_cbcDecrypt, length_blocks_zeroPad]; omega
  | ivGen => exact ⟨_, _, rfl, .ivGen _ _ _⟩
  | b64Enc wrap => exact encodeCommand_effect (f := fun src => if wrap then wrap76 (b64 src) else b64 src) rfl
  | b64Dec strict =>
    simp only [exec, execB64Dec]
    split
    · exact ⟨_, _, rfl, .noOutput rfl (by decide) (by decide)⟩
    · split
      · exact ⟨_, _, rfl, .noOutput rfl (by decide) (by decide)⟩
      · rename_i h _ out hd
        refine ⟨_, _, rfl, .output rfl out ?_ s.chain (.inl rfl)⟩
        have h1 := length_b64dec hd
        rw [length_input] at h1
        have h2 : s.inLen.toNat ≤ 1024 := by simpa [State.inLenBad, Config.ibufBytes] using h
        omega
  | lb64Enc => exact encodeCommand_effect (i := .lb64Enc) rfl
  | lb64Dec =>
    simp only [exec, execLb64Dec]
    split
    · exact ⟨_, _, rfl, .noOutput rfl (by decide) (by decide)⟩
    · rename_i h
      refine ⟨_, _, rfl, .output rfl (legDec s.input) ?_ s.chain (.inl rfl)⟩
      have h1 := length_legDec_le s.input
      rw [length_input] at h1
      have h2 : s.inLen.toNat ≤ 1024 := by simpa [State.inLenBad, Config.ibufBytes] using h
      omega
  | xfer =>
    simp only [exec, execXfer]
    split
    · exact ⟨_, _, rfl, .failed rfl (by decide) (by decide)⟩
    · exact ⟨_, _, rfl, .xfer (Nat.le_of_not_gt ‹¬ _ > Config.ibufBytes›)⟩

/-- What a next state of a command is. -/
theorem effect_of_exec (h : exec i s = .next t) : ∃ u code, t = u.finish code ∧ Effect s i code u := by
  obtain ⟨u, code, hu, he⟩ := exec_effect i s
  rw [hu] at h
  cases h
  exact ⟨u, code, rfl, he⟩

/-- The offsets of KEY, IBUF and OBUF (20_memory.md R50). -/
theorem inBuffer_iff {a : Nat} : inBuffer a = true ↔
    (0x100 ≤ a ∧ a < 0x150) ∨ (0x400 ≤ a ∧ a < 0x800) ∨ (0x800 ≤ a ∧ a < 0x1000) := by
  simp only [inBuffer, Bool.or_eq_true, Bool.and_eq_true, decide_eq_true_eq, or_assoc]
  simp [keyOff, ibufOff, obufOff, Config.keyBytes, Config.ibufBytes, Config.obufBytes]

/-- A command keeps the invariant (10_state.md R26, R28). -/
theorem Effect.inv {code : ResultCode} (h : Effect s i code t) (hs : s.Inv) : (t.finish code).Inv := by
  obtain ⟨h1, h2, h3, h4, -⟩ := hs
  have h5 {p : Prop} : (t.finish code).busy = true → p := fun h => by simp at h
  cases h with
  | failed => exact ⟨h1, h2, h3, h4, h5⟩
  | noOutput => exact ⟨h1, by simp, h3, h4, h5⟩
  | nop => exact ⟨h1, h2, h3, h4, h5⟩
  | keyInit => exact ⟨h1, h2, h3, h4, h5⟩
  | encBlk => exact ⟨h1, h2, h3, h4, h5⟩
  | decBlk => exact ⟨h1, h2, h3, h4, h5⟩
  | output hi out hl c hc =>
    refine ⟨h1, ?_, Memory.wf_writeBytes h3, fun c hc => ?_, h5⟩
    · simp; omega
    · rcases Memory.mem_writeBytes hc with h | h
      · simp only [obufOff] at h
        rw [inBuffer_iff]; omega
      · exact h4 c h
  | ivGen =>
    refine ⟨?_, h2, h3, h4, h5⟩
    simp only [State.finish_ctr, nextCtr, Config.ctrMod, BitVec.toNat_ofNat]; omega
  | xfer h =>
    refine ⟨h1, h2, Memory.wf_writeBytes h3, fun c hc => ?_, h5⟩
    rcases Memory.mem_writeBytes hc with h' | h'
    · simp only [State.obuf, State.length_bytes, ibufOff] at h'
      rw [inBuffer_iff]; omega
    · exact h4 c h'

end Sys2Proof.Machine
end

