-- ==== Sys2Proof/Laws/Step.lean ====
section
/-! SUPPORT. What an access can do, and what a step can do. -/

namespace Sys2Proof.Machine

/-- What a legal access, or a reset, can make of `s`. -/
inductive Served (s : State) : HostEvent → State → Prop where
  /-- Of STATUS it answers the status word, whether or not BUSY = 1 (70_reset_and_hazards.md R233). -/
  | read (width : Width) (off : BitVec 12) (v : Word) (draws : Nat) (hv : off = statusOff → v = s.statusWord) :
      Served s (.read width off) { s with draws := draws, replies := s.replies ++ [.data width off v] }
  /-- A write that is dropped (70_reset_and_hazards.md R232). -/
  | dropped (width : Width) (off : BitVec 12) (v : Word) (hb : s.busy = true) (ho : off ≠ statusOff) :
      Served s (.write width off v) { s with busyErr := true, replies := s.replies ++ [.written width off v] }
  | status (v : Word) : Served s (.write .w32 statusOff v) ((s.writeStatus v).reply (.written .w32 statusOff v))
  | register (off : BitVec 12) (v : Word) (hb : s.busy = false) (ho : off ≠ statusOff) (ha : off.toNat < 0x100) :
      Served s (.write .w32 off v) ((s.writeRegister off.toNat v).reply (.written .w32 off v))
  | buffer (width : Width) (off : BitVec 12) (v : Word) (hb : s.busy = false) (hw : hostWritable off.toNat = true)
      (hl : legalAccess width off = true) :
      Served s (.write width off v)
        ({ s with mem := s.mem.writeBytes off.toNat (laneBytes width v) }.reply (.written width off v))
  | ignored (width : Width) (off : BitVec 12) (v : Word) (hb : s.busy = false) :
      Served s (.write width off v) (s.reply (.written width off v))
  | reset : Served s .reset s.afterReset

variable {s t : State} {e : HostEvent} {width : Width} {off : BitVec 12} {v : Word}

theorem legalAccess_register (h : legalAccess width off = true) (ha : off.toNat < 0x100) :
    width = .w32 ∧ off.toNat % 4 = 0 := by
  simp only [legalAccess, Bool.and_eq_true, Bool.or_eq_true, beq_iff_eq, decide_eq_true_eq] at h
  obtain ⟨h1 | h1, h2⟩ := h
  · subst h1; exact ⟨rfl, h2⟩
  · omega

theorem legalAccess_aligned (h : legalAccess width off = true) : off.toNat % widthBytes width = 0 := by
  simp only [legalAccess, Bool.and_eq_true, beq_iff_eq] at h
  exact h.2

theorem legalAccess_statusOff (h : legalAccess width statusOff = true) : width = .w32 :=
  (legalAccess_register h (by decide)).1

theorem hostWritable_iff {a : Nat} : hostWritable a = true ↔ (0x100 ≤ a ∧ a < 0x150) ∨ (0x400 ≤ a ∧ a < 0x800) := by
  simp only [hostWritable, Bool.or_eq_true, Bool.and_eq_true, decide_eq_true_eq]
  simp [keyOff, ibufOff, Config.keyBytes, Config.ibufBytes]

theorem writeRegister_statusOff : s.writeRegister 0x008 v = s.writeStatus v := rfl

/-- Everything that an event from outside can do. -/
theorem serve_cases (h : serve e s = .next t) : Served s e t := by
  cases e with
  | read width off =>
    simp only [serve] at h
    split at h
    · cases h
      unfold State.serveRead
      split
      · rename_i hb
        exact .read _ _ _ _ (fun ho => by simp [ho] at hb)
      · exact .read _ _ _ s.draws (fun ho => by subst ho; rfl)
    · cases h
  | write width off v =>
    simp only [serve] at h
    split at h
    · rename_i hl
      cases h
      unfold State.serveWrite
      split
      · rename_i hb
        simp only [Bool.and_eq_true, bne_iff_ne] at hb
        exact .dropped _ _ _ hb.1 hb.2
      · rename_i hb
        by_cases ho : off = statusOff
        · subst ho
          obtain rfl := legalAccess_statusOff hl
          exact .status v
        · have hb : s.busy = false := by simpa [ho] using hb
          unfold State.writeValue
          dsimp only
          split
          · obtain ⟨rfl, -⟩ := legalAccess_register hl ‹_›
            exact .register _ _ hb ho ‹_›
          · split
            · exact .buffer _ _ _ hb ‹_› hl
            · exact .ignored _ _ _ hb
    · cases h
  | reset => cases h; exact .reset

/-- What a write to a register other than STATUS can change (10_state.md R21 to R31). -/
theorem writeRegister_cases (s : State) (off : BitVec 12) (v : Word) (ho : off ≠ statusOff) :
    (off = 0x004#12 ∧ s.writeRegister off.toNat v = s.issue v) ∨
    (off = 0x00C#12 ∧ s.writeRegister off.toNat v = { s with keyLen := v.extractLsb' 0 7 }) ∨
    (off = 0x018#12 ∧ s.writeRegister off.toNat v = { s with time := v }) ∨
    ∃ (inLen : BitVec 12) (ivL ivR blkL blkR : Word), s.writeRegister off.toNat v
      = { s with inLen := inLen, ivL := ivL, ivR := ivR, blkL := blkL, blkR := blkR } := by
  have key : ∀ n : Nat, off.toNat = n → off = BitVec.ofNat 12 n := fun n hn => by simp [← hn]
  unfold State.writeRegister
  split
  · exact .inl ⟨key _ ‹_›, rfl⟩
  · exact absurd (key _ ‹_›) ho
  · exact .inr (.inl ⟨key _ ‹_›, rfl⟩)
  · exact .inr (.inr (.inr ⟨_, s.ivL, s.ivR, s.blkL, s.blkR, rfl⟩))
  · exact .inr (.inr (.inl ⟨key _ ‹_›, rfl⟩))
  · exact .inr (.inr (.inr ⟨s.inLen, v, s.ivR, s.blkL, s.blkR, rfl⟩))
  · exact .inr (.inr (.inr ⟨s.inLen, s.ivL, v, s.blkL, s.blkR, rfl⟩))
  · exact .inr (.inr (.inr ⟨s.inLen, s.ivL, s.ivR, v, s.blkR, rfl⟩))
  · exact .inr (.inr (.inr ⟨s.inLen, s.ivL, s.ivR, s.blkL, v, rfl⟩))
  · exact .inr (.inr (.inr ⟨s.inLen, s.ivL, s.ivR, s.blkL, s.blkR, rfl⟩))

/-- What one more completed access does to whether the commands are polled. -/
theorem commandsPolled_append (rs : List Reply) (r : Reply) : commandsPolled (rs ++ [r]) =
    (!r.isCommand && (r.isIdlePoll || commandsPolled rs)) := by
  induction rs with
  | nil => cases r <;> simp [commandsPolled, Reply.isCommand, Reply.isIdlePoll]
  | cons a rs ih =>
    simp only [List.cons_append, commandsPolled, ih, List.any_append, List.any_cons, List.any_nil, Bool.or_false]
    cases a.isCommand <;> cases r.isCommand <;> cases r.isIdlePoll <;> simp

/-- An access that is no poll of an idle FBC leaves an unpolled command unpolled. -/
theorem commandsPolled_append_false {rs : List Reply} {r : Reply} (hr : r.isIdlePoll = false)
    (h : commandsPolled rs = false) : commandsPolled (rs ++ [r]) = false := by simp [commandsPolled_append, hr, h]

theorem statusWord_busy (s : State) : s.statusWord[0] = s.busy := by simp [State.statusWord]

/-- An event from outside keeps the invariant. -/
theorem Served.inv (h : Served s e t) (hs : s.Inv) : t.Inv := by
  obtain ⟨h1, h2, h3, h4, h5⟩ := hs
  cases h with
  | read width off v draws hv =>
    refine ⟨h1, h2, h3, h4, fun hb => commandsPolled_append_false ?_ (h5 hb)⟩
    have hb : s.busy = true := hb
    simp only [Reply.isIdlePoll, Bool.and_eq_false_iff, beq_eq_false_iff_ne, Bool.not_eq_false']
    by_cases ho : off = statusOff
    · rw [hv ho, statusWord_busy]; exact .inr hb
    · exact .inl ho
  | dropped width off v hb => exact ⟨h1, h2, h3, h4, fun _ => commandsPolled_append_false rfl (h5 hb)⟩
  | status => exact ⟨h1, h2, h3, h4, fun hb => commandsPolled_append_false rfl (h5 hb)⟩
  | register off v hb ho ha =>
    have idle {p : Prop} : s.busy = true → p := fun h => absurd (hb.symm.trans h) (by decide)
    rcases writeRegister_cases s off v ho with ⟨hoff, h⟩ | ⟨-, h⟩ | ⟨-, h⟩ | ⟨_, _, _, _, _, h⟩ <;> rw [h]
    · exact ⟨h1, h2, h3, h4, fun _ => (commandsPolled_append _ _).trans (by simp [Reply.isCommand, hoff, cmdOff])⟩
    all_goals exact ⟨h1, h2, h3, h4, idle⟩
  | buffer width off v hb hw hl =>
    refine ⟨h1, h2, Memory.wf_writeBytes h3, fun c hc => ?_, fun h => absurd (hb.symm.trans h) (by decide)⟩
    rcases Memory.mem_writeBytes hc with h | h
    · rw [hostWritable_iff] at hw
      have := legalAccess_aligned hl
      rw [inBuffer_iff]
      cases width <;> simp [laneBytes, widthBytes] at h this <;> omega
    · exact h4 c h
  | ignored width off v hb => exact ⟨h1, h2, h3, h4, fun h => absurd (hb.symm.trans h) (by decide)⟩
  | reset => exact ⟨by simp [State.afterReset, State.reset], by simp [State.afterReset, State.reset],
      List.Pairwise.nil, by simp [State.afterReset, State.reset], by simp [State.busy, State.afterReset, State.reset]⟩

/-- A read's value does not depend on the host's queue or on the latency left. -/
theorem readValue_congr (s : State) (n : Nat) (rest : List HostEvent) (width : Width) (off : BitVec 12) :
    State.readValue { s with wait := n, pending := rest } width off = s.readValue width off := by
  have h2 : ∀ a, State.readRegister { s with wait := n, pending := rest } a = s.readRegister a := by
    intro a
    unfold State.readRegister
    split <;> rfl
  have h3 : ∀ a, State.readLanes { s with wait := n, pending := rest } width a = s.readLanes width a := by
    intro a; cases width <;> rfl
  simp only [State.readValue, h2, h3]

theorem windowBytes_eq : Config.windowBytes = 4096 := rfl

theorem windowOffset_inside (off : BitVec 12) : windowOffset (Config.base + off.toNat) = some off := by
  unfold windowOffset
  split
  · simp
  · have := off.isLt
    have := windowBytes_eq
    omega

theorem windowOffset_outside {addr : Nat} (h : addr < Config.base ∨ Config.base + 4096 ≤ addr) :
    windowOffset addr = none := by
  unfold windowOffset
  split
  · have := windowBytes_eq
    omega
  · rfl

/-- An access of the window waits behind those before it (20_memory.md R51). -/
theorem hostAccess_inside (s : State) (access : BitVec 12 → HostEvent) (off : BitVec 12) :
    s.hostAccess (Config.base + off.toNat) access = { s with pending := s.pending ++ [access off] } := by
  unfold State.hostAccess
  rw [windowOffset_inside]

/-- An access outside the window does not reach the FBC (20_memory.md R51). -/
theorem hostAccess_outside (s : State) (access : BitVec 12 → HostEvent) {addr : Nat}
    (h : addr < Config.base ∨ Config.base + 4096 ≤ addr) : s.hostAccess addr access = s := by
  unfold State.hostAccess
  rw [windowOffset_outside h]

/-- What a step can do: the command in flight whose latency is over is performed, or the outside has its turn. -/
inductive Stepped (s : State) : State → Prop where
  | command {w : Word} {i : Instr} {code : ResultCode} {t : State} (hl : s.latched = some w) (hw : s.wait = 0)
      (hd : decode w = .ok i) (h : Effect s i code t) : Stepped s (t.finish code)
  | illegal {w : Word} {r : Illegal} (hl : s.latched = some w) (hw : s.wait = 0) (hd : decode w = .error r) :
      Stepped s (s.finish .illegal)
  | idle (hb : s.busy = false) (hp : s.pending = []) : Stepped s s
  | waited {n : Nat} (hb : s.busy = true) (hw : s.wait = n + 1) (hp : s.pending = []) : Stepped s { s with wait := n }
  | served {e : HostEvent} {rest : List HostEvent} {t : State} (hb : s.busy = false) (hp : s.pending = e :: rest)
      (h : Served { s with pending := rest } e t) : Stepped s t
  | servedWaiting {n : Nat} {e : HostEvent} {rest : List HostEvent} {t : State} (hb : s.busy = true)
      (hw : s.wait = n + 1) (hp : s.pending = e :: rest) (h : Served { s with wait := n, pending := rest } e t) :
      Stepped s t

/-- Everything that a step can do. -/
theorem step_cases (h : step s = .next t) : Stepped s t := by
  unfold step turn at h
  split at h
  · rename_i hl
    have hb : s.busy = false := by simp [State.busy, hl]
    unfold hostTurn at h
    split at h
    · cases h; exact .idle hb ‹_›
    · exact .served hb ‹_› (serve_cases h)
  · rename_i w hl
    have hb : s.busy = true := by simp [State.busy, hl]
    split at h
    · rename_i hw
      unfold perform at h
      split at h
      · obtain ⟨u, code, rfl, he⟩ := effect_of_exec h
        exact .command hl hw ‹_› he
      · cases h; exact .illegal hl hw ‹_›
    · rename_i n hw
      unfold hostTurn at h
      split at h
      · cases h; exact .waited hb hw ‹_›
      · exact .servedWaiting hb hw ‹_› (serve_cases h)

/-- A run whose first step goes on is the rest of the run from there. -/
theorem run_step {M : Host.Core} {a b : M.State} (h : M.step a = .next b) (k : Nat) :
    M.run (k + 1) a = M.run k b := by
  rw [Host.Core.run, h]

end Sys2Proof.Machine
end

