-- ==== Sys2Proof/Tests/Slice0.lean ====
section
/-! SUPPORT. Tests, each with a value that the spec gives or that the decoding tables spell out, and for each obligation
with hypotheses a state and operands that meet them all. -/

namespace Sys2Proof.Tests

-- One declaration at a time: each thread that waits for a check holds a stack of its own.
set_option Elab.async false

open Sys2Proof.Machine Sys2Proof.Reading

/-- What a next state holds, none where there is no next state. -/
def got {α : Type} (o : Host.Outcome State Fault Refusal) (f : State → α) : Option α :=
  match o with
  | .next s => some (f s)
  | .fault _ => none
  | .refused _ => none

/-- The reset state with IBUF and INLEN written. -/
def withInput (src : List Byte) : State :=
  { State.reset with mem := Memory.writeBytes [] ibufOff src, inLen := BitVec.ofNat 12 src.length }

/-- A state as if a key had been loaded whose schedule is the initial tables. -/
def keyed (s : State) : State := { s with keyValid := true, sched := initTables }

/-- The output of a command. -/
def output (s : State) : List Byte := s.obuf s.outLen.toNat

/-- The reset state's schedule, all zero, as if a key had been loaded. Under it F is 0 and the 16 rounds only swap, so
encipher and decipher both turn (L, R) into (R, L), by 41_block_cipher.md R101 and R102. -/
def swapping (s : State) : State := { s with keyValid := true }

/-- "abcdefgh", and what it is with its two words swapped. -/
def letters : List Byte := [0x61#8, 0x62#8, 0x63#8, 0x64#8, 0x65#8, 0x66#8, 0x67#8, 0x68#8]
def lettersSwapped : List Byte := [0x65#8, 0x66#8, 0x67#8, 0x68#8, 0x61#8, 0x62#8, 0x63#8, 0x64#8]

/-- A state with the word of a command in flight and its latency running. -/
def waiting (n : Nat) : State := { State.reset with latched := some 0x00000000#32, wait := n }

/-! ## Decoding: each word put together from the OPC of R83 in bits 7:0 and the flags of R84 from bit 8 up -/

theorem test_decode_nop : decode 0b00000000000000000000000000000000#32 = .ok .nop := by decide
theorem test_decode_keyInit : decode 0b00000000000000000000000000000001#32 = .ok (.keyInit false) := by decide
theorem test_decode_keyInit_cap56 : decode 0b00000000000000000000000100000001#32 = .ok (.keyInit true) := by decide
theorem test_decode_encBlk : decode 0b00000000000000000000000000000010#32 = .ok .encBlk := by decide
theorem test_decode_decBlk : decode 0b00000000000000000000000000000011#32 = .ok .decBlk := by decide
theorem test_decode_ecbEnc : decode 0b00000000000000000000000000000100#32 = .ok .ecbEnc := by decide
theorem test_decode_ecbDec : decode 0b00000000000000000000000000000101#32 = .ok .ecbDec := by decide
theorem test_decode_cbcEnc : decode 0b00000000000000000000011000000110#32 = .ok (.cbcEnc .cont true) := by decide
theorem test_decode_cbcEnc_iv : decode 0b00000000000000000000000100000110#32 = .ok (.cbcEnc .iv false) := by decide
theorem test_decode_cbcDec : decode 0b00000000000000000000010100000111#32 = .ok (.cbcDec .iv true) := by decide
theorem test_decode_cbcDec_cont : decode 0b00000000000000000000001000000111#32 = .ok (.cbcDec .cont false) := by decide
theorem test_decode_ivGen : decode 0b00000000000000000000000000001000#32 = .ok .ivGen := by decide
theorem test_decode_b64Enc : decode 0b00000000000000000000000100001001#32 = .ok (.b64Enc true) := by decide
theorem test_decode_b64Dec : decode 0b00000000000000000000000000001010#32 = .ok (.b64Dec false) := by decide
theorem test_decode_lb64Enc : decode 0b00000000000000000000000000001011#32 = .ok .lb64Enc := by decide
theorem test_decode_lb64Dec : decode 0b00000000000000000000000000001100#32 = .ok .lb64Dec := by decide
theorem test_decode_xfer : decode 0b00000000000000000000000000001101#32 = .ok .xfer := by decide

/-- 30_encoding.md R87's examples. -/
theorem test_encode_examples : encode (.keyInit true) = 0x00000101#32 ∧ encode (.cbcEnc .zero true) = 0x00000406#32 ∧
    encode (.cbcEnc .iv false) = 0x00000106#32 ∧ encode (.cbcEnc .cont false) = 0x00000206#32 ∧
    encode (.cbcDec .zero true) = 0x00000407#32 ∧ encode (.b64Enc true) = 0x00000109#32 ∧
    encode (.b64Dec true) = 0x0000010A#32 := by decide

theorem test_decodeTableWord : decodeTableWord 32 0x00000407 = some (.cbcDec .zero true) ∧
    decodeTableWord 8 0x0D = some .xfer ∧ decodeTableWord 32 0x0E = none := by decide

/-! ## Well-formedness: an ill-formed word for each check, which the check refuses and the decoder rejects
(95_test_vectors.md X4, X5, X6, X7 and §2.3) -/

theorem test_rsvd_refused : (CommandWord.ofWord 0x00010000#32).rsvdOk = false ∧
    (CommandWord.ofWord 0x00010000#32).wf = false ∧ decode 0x00010000#32 = .error .reservedBits := by decide

theorem test_opc_refused : (CommandWord.ofWord 0x0000000E#32).opcOk = false ∧
    (CommandWord.ofWord 0x0000000E#32).wf = false ∧ decode 0x0000000E#32 = .error .unknownOpcode := by decide

theorem test_flags_refused : (CommandWord.ofWord 0x00000302#32).flagsOk = false ∧
    (CommandWord.ofWord 0x00000302#32).wf = false ∧ decode 0x00000302#32 = .error .undefinedFlags := by decide

theorem test_flags_refused_cbcDec : (CommandWord.ofWord 0x00000807#32).flagsOk = false ∧
    decode 0x00000807#32 = .error .undefinedFlags ∧ decode 0x00000100#32 = .error .undefinedFlags := by decide

theorem test_chs_refused : (CommandWord.ofWord 0x00000306#32).chsOk = false ∧
    (CommandWord.ofWord 0x00000306#32).wf = false ∧ decode 0x00000306#32 = .error .reservedChainStart := by decide

theorem test_wf_accepts : (CommandWord.ofWord 0x00000606#32).wf = true ∧ (CommandWord.ofWord 0x0000010A#32).wf = true ∧
    (Instr.cbcEnc .cont true).wf = true := by decide

/-! ## Memory -/

theorem test_memory_write_sorted : Memory.write (Memory.write [] 0x400 1#8) 0x100 2#8 = [(0x100, 2#8), (0x400, 1#8)] := by
  decide

theorem test_memory_rewrite : Memory.write [(0x100, 2#8)] 0x100 3#8 = [(0x100, 3#8)] := by decide

theorem test_reset_memory : State.reset.mem = [] ∧ State.reset.mem.wf := by decide

/-! ## The tables (42_cipher_tables.md R132) and the cipher core (95_test_vectors.md §2.1) -/

theorem test_initP_check : initTables.p.toList.length = 18 ∧ initTables.p.toList.foldl (· ^^^ ·) 0#32 = 0xB73AD7EA#32 ∧
    initTables.p.toList.foldl (· + ·) 0#32 = 0x8E4D14CC#32 := by decide +kernel

theorem test_initS_xor : initTables.s.toList.map (fun t => t.toList.foldl (· ^^^ ·) 0#32)
    = [0x4EB4DB7F#32, 0xC727E122#32, 0x462A5D01#32, 0x1779E2BC#32] := by decide +kernel

theorem test_initS_sum : initTables.s.toList.map (fun t => t.toList.foldl (· + ·) 0#32)
    = [0x4B745115#32, 0x72FF37B2#32, 0x2AC02B91#32, 0xF43E3A88#32] := by decide +kernel

theorem test_B1_B2_B3 : feistelF initTables.s 0x00000000#32 = 0x2FCFF51E#32 ∧
    feistelF initTables.s 0x01020304#32 = 0x3CEDFF8C#32 ∧ feistelF initTables.s 0xFFFFFFFF#32 = 0x452C2867#32 := by
  decide +kernel

/-- "secret". -/
def secret : List Byte := [0x73#8, 0x65#8, 0x63#8, 0x72#8, 0x65#8, 0x74#8]

/-- B6: the fill's first encipherment gives P[0] and P[1], which nothing overwrites later. -/
theorem test_B6 : encipher (mixSubkeys initTables secret) ⟨0#32, 0#32⟩ = ⟨0xAFD86852#32, 0xBF3EE5D8#32⟩ := by
  decide +kernel

/-! ## The commands, each through one step from its word -/

/-- 41_block_cipher.md R114's example: STATUS goes from 0x302 to 0x002. -/
theorem test_nop : got (step (({ State.reset with keyValid := true, result := .keyLen } : State).withFetchWord 32 0x00000000))
    State.statusWord = some 0x00000002#32 := by decide +kernel

/-- B26: the range check is on KEYLEN, before the cap. -/
theorem test_B26 : got (step (({ State.reset with keyLen := 127#7 } : State).withFetchWord 32 0x00000101))
    (fun s => (s.result, s.keyValid)) = some (.keyLen, false) := by decide +kernel

theorem test_keyInit_valid : got (step (({ State.reset with keyLen := 6#7, mem := Memory.writeBytes [] keyOff secret } :
    State).withFetchWord 32 0x00000001)) State.statusWord = some 0x00000002#32 := by decide +kernel

/-- B4 in BLK. -/
theorem test_encBlk : got (step ((keyed State.reset).withFetchWord 32 0x00000002)) (fun s => (s.blkL, s.blkR))
    = some (0x706D9FCC#32, 0x1792D23A#32) := by decide +kernel

/-- B27: STATUS = 0x200, BLK unchanged (also 95_test_vectors.md P3). -/
theorem test_B27 : got (step (({ State.reset with blkL := 5#32 } : State).withFetchWord 32 0x00000002))
    (fun s => (s.statusWord, s.blkL)) = some (0x00000200#32, 5#32) := by decide +kernel

/-- B5 in BLK. -/
theorem test_decBlk : got (step ((keyed State.reset).withFetchWord 32 0x00000003)) (fun s => (s.blkL, s.blkR))
    = some (0x3E6C275D#32, 0x20C8AB5A#32) := by decide +kernel

/-- Nine bytes are two blocks, the second with seven zeros in it, which stand first after the swap (R140, R145). -/
theorem test_ecbEnc : got (step ((swapping (withInput (letters ++ [0x69#8]))).withFetchWord 32 0x00000004)) output
    = some (lettersSwapped ++ [0#8, 0#8, 0#8, 0#8, 0x69#8, 0#8, 0#8, 0#8]) := by decide +kernel

/-- E8: NOKEY comes before INLEN, and OUTLEN is 0. -/
theorem test_E8 : got (step (({ State.reset with inLen := 2000#12, outLen := 3#12 } : State).withFetchWord 32 0x00000004))
    (fun s => (s.statusWord, s.outLen)) = some (0x00000200#32, 0#12) := by decide +kernel

theorem test_ecbDec : got (step ((swapping (withInput letters)).withFetchWord 32 0x00000005)) output
    = some lettersSwapped := by decide +kernel

/-- E9: INLEN = 1025 raises INLEN. -/
theorem test_E9 : got (step (({ swapping State.reset with inLen := 1025#12 } : State).withFetchWord 32 0x00000005))
    (fun s => (s.result, s.outLen)) = some (.inLen, 0#12) := by decide +kernel

/-- With chs=iv the first block is xored with the IV before the swap, the second with the first ciphertext block, and
that of the second is left in CHAIN (R150): (0, 0) xor (1, 2) swapped is (2, 1), and (0, 0) xor (2, 1) swapped is
(1, 2). -/
theorem test_cbcEnc : got (step (({ swapping (withInput (List.replicate 9 0#8)) with ivL := 1#32, ivR := 2#32 } :
    State).withFetchWord 32 0x00000106)) (fun s => (output s, s.chainL, s.chainR))
    = some ([0#8, 0#8, 0#8, 2#8, 0#8, 0#8, 0#8, 1#8, 0#8, 0#8, 0#8, 1#8, 0#8, 0#8, 0#8, 2#8], 1#32, 2#32) := by
  decide +kernel

/-- An empty input with piv gives the enciphered IV alone (R150). -/
theorem test_cbcEnc_piv : got (step (({ swapping (withInput []) with ivL := 1#32, ivR := 2#32 } :
    State).withFetchWord 32 0x00000406)) output = some [0#8, 0#8, 0#8, 2#8, 0#8, 0#8, 0#8, 1#8] := by decide +kernel

/-- With chs=cont the deciphered block is xored with CHAIN = (0, 1), and CHAIN is left at the ciphertext block (R151). -/
theorem test_cbcDec : got (step (({ swapping (withInput letters) with chainR := 1#32 } : State).withFetchWord 32 0x00000207))
    (fun s => (output s, s.chainL, s.chainR))
    = some ([0x65#8, 0x66#8, 0x67#8, 0x68#8, 0x61#8, 0x62#8, 0x63#8, 0x65#8], 0x61626364#32, 0x65666768#32) := by
  decide +kernel

/-- Drop discards the first block's plaintext (R151): (0, 0) swapped xor the first block. -/
theorem test_cbcDec_drop : got (step ((swapping (withInput (letters ++ List.replicate 8 0#8))).withFetchWord 32 0x00000407))
    (fun s => (output s, s.outLen)) = some (letters, 8#12) := by decide +kernel

/-- V3: CTR = 65533 wraps to 0; V7: no key is needed; IV_L is TIME. -/
theorem test_ivGen : got (step (({ State.reset with ctr := 65533#16, time := 0x5F5E1000#32 } :
    State).withFetchWord 32 0x00000008)) (fun s => (s.ctr, s.seeded, s.ivL, s.result))
    = some (0#16, true, 0x5F5E1000#32, .ok) := by decide +kernel

/-- "foobar" is "Zm9vYmFy" (95_test_vectors.md §2.5). -/
theorem test_b64Enc : got (step ((withInput [0x66#8, 0x6F#8, 0x6F#8, 0x62#8, 0x61#8, 0x72#8]).withFetchWord 32 0x00000009))
    output = some [0x5A#8, 0x6D#8, 0x39#8, 0x76#8, 0x59#8, 0x6D#8, 0x46#8, 0x79#8] := by decide +kernel

/-- FB FF is "+/8=", with WRAP too, since no character follows (95_test_vectors.md §2.5). -/
theorem test_b64Enc_wrap : got (step ((withInput [0xFB#8, 0xFF#8]).withFetchWord 32 0x00000109))
    output = some [0x2B#8, 0x2F#8, 0x38#8, 0x3D#8] := by decide +kernel

/-- Wrapping 58 bytes gives 81 characters, with a line feed at 76 (95_test_vectors.md §2.5). -/
theorem test_wrap76 : (wrap76 (b64 (List.replicate 58 0#8))).length = 81 ∧
    (wrap76 (b64 (List.replicate 58 0#8)))[76]? = some 0x0A#8 := by decide +kernel

/-- X10: "Zg!=" is lenient "Zg=", completed, 66. -/
theorem test_X10 : got (step ((withInput [0x5A#8, 0x67#8, 0x21#8, 0x3D#8]).withFetchWord 32 0x0000000A)) output
    = some [0x66#8] := by decide +kernel

/-- X9: strict it is B64FORMAT, STATUS = 0x600 (95_test_vectors.md P4). -/
theorem test_X9 : got (step ((withInput [0x5A#8, 0x67#8, 0x21#8, 0x3D#8]).withFetchWord 32 0x0000010A))
    (fun s => (s.statusWord, s.outLen)) = some (0x00000600#32, 0#12) := by decide +kernel

/-- "Zm9vYmFy=", "Zg==Zg==", "Zm=v" and "====" are errors, lenient too; "Zh==" is 66 (95_test_vectors.md §2.5). -/
theorem test_b64dec_groups :
    b64dec [0x5A#8, 0x6D#8, 0x39#8, 0x76#8, 0x59#8, 0x6D#8, 0x46#8, 0x79#8, 0x3D#8] false = none ∧
    b64dec [0x5A#8, 0x67#8, 0x3D#8, 0x3D#8, 0x5A#8, 0x67#8, 0x3D#8, 0x3D#8] false = none ∧
    b64dec [0x5A#8, 0x6D#8, 0x3D#8, 0x76#8] false = none ∧
    b64dec [0x3D#8, 0x3D#8, 0x3D#8, 0x3D#8] false = none ∧
    b64dec [0x5A#8, 0x68#8, 0x3D#8, 0x3D#8] true = some [0x66#8] := by decide +kernel

/-- 0123456789ABCDEF is "JRWE70BjO6/." (95_test_vectors.md §2.6). -/
theorem test_lb64Enc : got (step ((withInput [0x01#8, 0x23#8, 0x45#8, 0x67#8, 0x89#8, 0xAB#8, 0xCD#8,
    0xEF#8]).withFetchWord 32 0x0000000B)) output = some [0x4A#8, 0x52#8, 0x57#8, 0x45#8, 0x37#8, 0x30#8, 0x42#8, 0x6A#8,
    0x4F#8, 0x36#8, 0x2F#8, 0x2E#8] := by decide +kernel

/-- "ZZZZZ2ZZZZZ2" is 3FFFFFFF3FFFFFFF (95_test_vectors.md §2.6). -/
theorem test_lb64Dec : got (step ((withInput [0x5A#8, 0x5A#8, 0x5A#8, 0x5A#8, 0x5A#8, 0x32#8, 0x5A#8, 0x5A#8, 0x5A#8,
    0x5A#8, 0x5A#8, 0x32#8]).withFetchWord 32 0x0000000C)) output
    = some [0x3F#8, 0xFF#8, 0xFF#8, 0xFF#8, 0x3F#8, 0xFF#8, 0xFF#8, 0xFF#8] := by decide +kernel

/-- 00 "abc" is empty; "/" completed is 0000000000000001 (95_test_vectors.md §2.6). -/
theorem test_legDec_ends : legDec [0x00#8, 0x61#8, 0x62#8, 0x63#8] = [] ∧
    legDec [0x2F#8] = [0#8, 0#8, 0#8, 0#8, 0#8, 0#8, 0#8, 1#8] := by decide +kernel

/-- X1: OUTLEN and OBUF's bytes go to IBUF and INLEN. -/
theorem test_X1 : got (step (({ State.reset with mem := Memory.writeBytes [] obufOff letters, outLen := 8#12 } :
    State).withFetchWord 32 0x0000000D)) (fun s => (s.ibuf 8, s.inLen, s.outLen)) = some (letters, 8#12, 8#12) := by
  decide +kernel

/-- X2: OUTLEN = 1032 raises OVERFLOW, STATUS = 0x500, INLEN and OUTLEN unchanged (95_test_vectors.md P4). -/
theorem test_X2 : got (step (({ State.reset with inLen := 688#12, outLen := 1032#12 } : State).withFetchWord 32 0x0000000D))
    (fun s => (s.statusWord, s.inLen, s.outLen)) = some (0x00000500#32, 688#12, 1032#12) := by decide +kernel

/-- X4: an ILLEGAL word leaves OUTLEN. -/
theorem test_X4 : got (step (({ State.reset with outLen := 7#12 } : State).withFetchWord 32 0x0000000E))
    (fun s => (s.statusWord, s.outLen)) = some (0x00000100#32, 7#12) := by decide +kernel

/-! ## Accesses (95_test_vectors.md X12 to X21) -/

theorem test_X12_X13_X14 : serve (.write .w32 0x002#12 1#32) State.reset = .fault (.busError (.write .w32 0x002#12 1#32)) ∧
    serve (.write .w8 0x004#12 1#32) State.reset = .fault (.busError (.write .w8 0x004#12 1#32)) ∧
    serve (.read .w16 0x401#12) State.reset = .fault (.busError (.read .w16 0x401#12)) := by
  refine ⟨rfl, rfl, rfl⟩

theorem test_X15_X20_X21 : got (serve (.read .w8 0x200#12) State.reset) State.replies
      = some [.data .w8 0x200#12 0#32] ∧
    got (serve (.read .w32 0x004#12) State.reset) State.replies = some [.data .w32 0x004#12 0#32] ∧
    got (serve (.read .w32 0x000#12) (waiting 3)) State.replies
      = some [.data .w32 0x000#12 0x46424331#32] := by decide +kernel

/-- X16: the write's lowest byte goes to the lowest offset. -/
theorem test_X16 : got (serve (.write .w32 0x400#12 0x64636261#32) State.reset) State.mem
    = some [(0x400, 0x61#8), (0x401, 0x62#8), (0x402, 0x63#8), (0x403, 0x64#8)] := by decide +kernel

theorem test_X17_X18 : got (serve (.write .w32 0x008#12 8#32) { waiting 3 with busyErr := true })
      (fun s => (s.busyErr, s.busy)) = some (false, true) ∧
    got (serve (.write .w32 0x010#12 9#32) (waiting 3)) (fun s => (s.busyErr, s.inLen)) = some (true, 0#12) := by
  decide +kernel

/-- X19: of STATUS only BUSYERR is cleared. -/
theorem test_X19 : got (serve (.write .w32 0x008#12 0xFFFFFFFF#32)
    { State.reset with busyErr := true, keyValid := true, seeded := true, result := .b64Format }) State.statusWord
    = some 0x00000606#32 := by decide +kernel

/-- KEYLEN stores bits 6:0 only (10_state.md R24), and a 16-bit read gathers two lanes (20_memory.md R54). -/
theorem test_register_bits : got (serve (.write .w32 0x00C#12 0xFFFFFFD1#32) State.reset) State.keyLen = some 81#7 ∧
    got (serve (.read .w16 0x402#12) (withInput [1#8, 2#8, 3#8, 4#8])) State.replies
      = some [.data .w16 0x402#12 0x0403#32] := by
  decide +kernel

/-- A CMD write latches the word and sets BUSY; the reset that follows abandons it. -/
theorem test_issue_and_reset : got (serve (.write .w32 0x004#12 0x00000002#32) State.reset) State.latched
      = some (some 0x00000002#32) ∧
    got (serve .reset { waiting 3 with time := 5#32 }) (fun s => (s.busy, s.time)) = some (false, 0#32) := by
  decide +kernel

/-- R239: a program that issued a command has ended only after a read of STATUS that returned BUSY = 0. -/
theorem test_run_ended : commandsPolled [.written .w32 0x004#12 0#32] = false ∧
    commandsPolled [.written .w32 0x004#12 0#32, .data .w32 0x008#12 1#32] = false ∧
    commandsPolled [.written .w32 0x004#12 0#32, .data .w32 0x008#12 0x302#32, .data .w32 0x014#12 1#32] = true ∧
    commandsPolled [.written .w32 0x004#12 0#32, .data .w32 0x008#12 0#32, .written .w32 0x004#12 0#32] = false := by
  decide

/-- 44_base64.md R170, R180: both alphabets have 64 characters, no two alike. -/
theorem test_alphabets : standardAlphabet.length = 64 ∧ standardAlphabet.Nodup ∧ legacyAlphabet.length = 64 ∧
    legacyAlphabet.Nodup := by decide +kernel

/-! ## Witnesses: for each obligation with hypotheses, a state and operands that meet them all, at the ends of the ranges
of its clauses -/

/-- A command's next state, for hypotheses of the form "exec answers next". -/
theorem exec_next (i : Instr) (s : State) : ∃ t, exec i s = .next t := by
  obtain ⟨t, code, h, -⟩ := exec_effect i s
  exact ⟨_, h⟩

theorem witness_DecodeExactlyInvertsEncode : (Instr.cbcDec .cont true).wf = true ∧
    decode 0x00000607#32 = .ok (.cbcDec .cont true) := by decide

theorem witness_IllegalWordsRaiseIllegal : ∃ s : State, (CommandWord.ofWord 0x0000000E#32).wf = false ∧
    s.latched = some 0x0000000E#32 ∧ s.wait = 0 := ⟨State.reset.latchCommand 0x0000000E#32, by decide, rfl, rfl⟩

theorem witness_StepPerformsLatchedCommand : ∃ s : State, s.latched = some 0x0000000D#32 ∧ s.wait = 0 ∧
    decode 0x0000000D#32 = .ok .xfer := ⟨State.reset.latchCommand 0x0000000D#32, rfl, rfl, by decide⟩

/-- The state after a program of one NOP and one poll, which found BUSY = 0. -/
def polledOnce : State :=
  { State.reset with replies := [.written .w32 0x004#12 0#32, .data .w32 0x008#12 0#32] }

theorem witness_StepServesOutsideOtherwise :
    (∃ s : State, s.busy = false ∧ s.pending = [.reset]) ∧
    (∃ s : State, s.latched = some 0#32 ∧ s.wait = 0 + 1 ∧ s.pending = [.reset]) ∧
    (State.reset.busy = false ∧ State.reset.pending = []) ∧
    (∃ s : State, s.latched = some 0#32 ∧ s.wait = 4 + 1 ∧ s.pending = []) ∧
    (∃ s : State, s.replies = [] ++ .written .w32 0x004#12 0#32 :: [.data .w32 0x008#12 0#32]) ∧
    ∃ s : State, s.Inv ∧ runEnded s ∧ s.replies ≠ [] :=
  ⟨⟨{ State.reset with pending := [.reset] }, rfl, rfl⟩, ⟨{ waiting 1 with pending := [.reset] }, rfl, rfl, rfl⟩,
    ⟨rfl, rfl⟩, ⟨waiting 5, rfl, rfl, rfl⟩, ⟨polledOnce, rfl⟩,
    ⟨polledOnce, ⟨by decide, by decide, by decide, by decide, by decide⟩, ⟨rfl, rfl⟩, by decide⟩⟩

theorem witness_CmdWriteIssuesCommand : State.reset.busy = false ∧ (waiting 0).busy = true := ⟨rfl, rfl⟩

theorem witness_CommandCompletesAfterItsLatency : ∃ s : State, s.latched = some 0#32 ∧
    s.pending.take s.wait = [.read .w32 0x008#12, .write .w8 0xFFF#12 1#32] ∧
    ∀ e ∈ s.pending.take s.wait, ∃ width off, legalAccess width off = true ∧
      (e = .read width off ∨ ∃ v, e = .write width off v) := by
  refine ⟨{ waiting 2 with pending := [.read .w32 0x008#12, .write .w8 0xFFF#12 1#32, .reset] }, rfl, rfl, ?_⟩
  intro e he
  have : e = .read .w32 0x008#12 ∨ e = .write .w8 0xFFF#12 1#32 := by simpa [waiting] using he
  rcases this with rfl | rfl
  · exact ⟨.w32, 0x008#12, by decide, .inl rfl⟩
  · exact ⟨.w8, 0xFFF#12, by decide, .inr ⟨_, rfl⟩⟩

theorem witness_InputsCannotChangeWhileBusy : ∃ s t : State, s.latched = some 0#32 ∧ s.wait = 2 + 1 ∧
    s.pending.head? ≠ some .reset ∧ step s = .next t :=
  ⟨{ waiting 3 with pending := [.write .w32 0x010#12 9#32] }, _, rfl, rfl, by decide, rfl⟩

/-- Illegal accesses at both ends of the register region and of the buffer regions, and the legal ones beside them. -/
theorem witness_BusErrorExactlyOnIllegalAccess :
    let illegal (width : Width) (off : BitVec 12) : Prop :=
      (off.toNat < 0x100 ∧ (width ≠ .w32 ∨ off.toNat % 4 ≠ 0)) ∨ (0x100 ≤ off.toNat ∧ off.toNat % widthBytes width ≠ 0)
    illegal .w8 0x000#12 ∧ illegal .w8 0x0FF#12 ∧ illegal .w32 0x0FD#12 ∧ illegal .w16 0x101#12 ∧
    illegal .w32 0xFFE#12 ∧ ¬ illegal .w32 0x0FC#12 ∧ ¬ illegal .w8 0x100#12 ∧ ¬ illegal .w8 0xFFF#12 ∧
    ¬ illegal .w16 0xFFE#12 := by decide

/-- The first register, CMD and the last one of the statement's list. -/
theorem witness_RegisterReadsReturnValues :
    let s := State.reset
    let registers : List (BitVec 12 × Word) := [(0x000#12, 0x46424331#32), (0x004#12, 0#32), (0x008#12, s.statusWord),
      (0x00C#12, BitVec.ofNat 32 s.keyLen.toNat), (0x010#12, BitVec.ofNat 32 s.inLen.toNat),
      (0x014#12, BitVec.ofNat 32 s.outLen.toNat), (0x018#12, s.time), (0x01C#12, BitVec.ofNat 32 s.ctr.toNat),
      (0x020#12, s.ivL), (0x024#12, s.ivR), (0x028#12, s.chainL), (0x02C#12, s.chainR), (0x030#12, s.blkL),
      (0x034#12, s.blkR)]
    s.busy = false ∧ (0x000#12, 0x46424331#32) ∈ registers ∧ (0x004#12, 0#32) ∈ registers ∧
      (0x034#12, s.blkR) ∈ registers := by
  refine ⟨rfl, ?_⟩
  decide

theorem witness_RegisterWritesStore : ∃ s : State, s.busy = false ∧ s.keyLen = 127#7 :=
  ⟨{ State.reset with keyLen := 127#7 }, rfl, rfl⟩

theorem witness_ReadOnlyWritesIgnored : ∃ s : State, s.busy = false ∧
    (legalAccess .w32 0x02C#12 = true ∧ 0x02C#12 ∈ [0x000#12, 0x014#12, 0x01C#12, 0x028#12, 0x02C#12]) ∧
    (legalAccess .w16 0x800#12 = true ∧ 0x800 ≤ (0x800#12).toNat) ∧
    (legalAccess .w8 0xFFF#12 = true ∧ 0x800 ≤ (0xFFF#12).toNat) := ⟨State.reset, rfl, by decide, by decide, by decide⟩

/-- Both ends of both reserved ranges, legal and illegal. -/
theorem witness_ReservedOffsetsReadZeroIgnoreWrites :
    let reserved (off : BitVec 12) : Prop :=
      (0x038 ≤ off.toNat ∧ off.toNat ≤ 0x0FF) ∨ (0x150 ≤ off.toNat ∧ off.toNat ≤ 0x3FF)
    State.reset.busy = false ∧ reserved 0x038#12 ∧ legalAccess .w32 0x038#12 = true ∧ reserved 0x0FF#12 ∧
    legalAccess .w32 0x0FF#12 = false ∧ reserved 0x150#12 ∧ legalAccess .w8 0x150#12 = true ∧ reserved 0x3FF#12 ∧
    legalAccess .w8 0x3FF#12 = true ∧ legalAccess .w16 0x3FF#12 = false := by
  refine ⟨rfl, ?_⟩
  decide

theorem witness_BufferWriteStoresLanes :
    let writable (off : BitVec 12) : Prop := (0x100 ≤ off.toNat ∧ off.toNat < 0x150) ∨ (0x400 ≤ off.toNat ∧ off.toNat < 0x800)
    State.reset.busy = false ∧ writable 0x100#12 ∧ legalAccess .w32 0x100#12 = true ∧ writable 0x14F#12 ∧
    legalAccess .w8 0x14F#12 = true ∧ writable 0x7FE#12 ∧ legalAccess .w16 0x7FE#12 = true := by
  refine ⟨rfl, ?_⟩
  decide

theorem witness_BufferReadGathersLanes :
    let readable (off : BitVec 12) : Prop := (0x100 ≤ off.toNat ∧ off.toNat < 0x150) ∨ 0x400 ≤ off.toNat
    State.reset.busy = false ∧ readable 0x14C#12 ∧ legalAccess .w32 0x14C#12 = true ∧ readable 0x400#12 ∧
    legalAccess .w16 0x400#12 = true ∧ readable 0xFFF#12 ∧ legalAccess .w8 0xFFF#12 = true := by
  refine ⟨rfl, ?_⟩
  decide

theorem witness_WritesWhileBusyDropped : (waiting 1).busy = true ∧ legalAccess .w32 0x004#12 = true ∧
    0x004#12 ≠ 0x008#12 ∧ legalAccess .w16 0x008#12 = false := by
  refine ⟨rfl, ?_⟩
  decide

theorem witness_BusyErrStaysUntilCleared : ∃ s t : State, step s = .next t ∧ s.busyErr = true ∧ t.busyErr = false :=
  ⟨{ waiting 1 with busyErr := true, pending := [.write .w32 0x008#12 8#32] }, _, rfl, rfl, rfl⟩

theorem witness_ReadsWhileBusy : (waiting 1).busy = true ∧ legalAccess .w8 0xFFF#12 = true ∧
    0xFFF#12 ≠ 0x000#12 ∧ 0xFFF#12 ≠ 0x008#12 := by
  refine ⟨rfl, ?_⟩
  decide

/-- While BUSY = 1 a poll, and a write to STATUS with BUSYERR = 1; while BUSY = 0 a write. -/
theorem witness_WaitingHostLosesNothing :
    let meets (s : State) (e : HostEvent) : Prop :=
      s.pending = [e] ∧ (s.busy = true → s.wait ≠ 0) ∧ waitsForBusy e s ∧ ∃ t, step s = .next t
    (∃ s : State, s.busy = true ∧ s.busyErr = false ∧ meets s (.read .w32 statusOff)) ∧
    (∃ s : State, s.busy = true ∧ s.busyErr = true ∧ meets s (.write .w32 statusOff 8#32)) ∧
    ∃ s : State, s.busy = false ∧ meets s (.write .w32 0x018#12 7#32) := by
  have one : (1 : Nat) ≠ 0 := by decide
  have idle {p : Prop} : false = true → p := fun h => absurd h (by decide)
  exact ⟨⟨{ waiting 1 with pending := [.read .w32 statusOff] }, rfl, rfl, rfl, fun _ => one, fun _ => .inr rfl, _, rfl⟩,
    ⟨{ waiting 1 with busyErr := true, pending := [.write .w32 statusOff 8#32] }, rfl, rfl, rfl, fun _ => one,
      fun _ => rfl, _, rfl⟩,
    { State.reset with pending := [.write .w32 0x018#12 7#32] }, rfl, rfl, idle, idle, _, rfl⟩

theorem witness_OnlyTheWindowReachesTheCore :
    (∃ (addr : Nat) (off : BitVec 12), addr = Config.base + off.toNat) ∧ ∃ addr : Nat, Config.base + 4096 ≤ addr :=
  ⟨⟨_, 0xFFF#12, rfl⟩, ⟨_, Nat.le_refl _⟩⟩

/-- A NOP word with its top bit set, and one with bit 8 set. -/
theorem witness_NopCompletes : (0x80000000#32).toNat % 256 = 0 ∧ 0x80000000#32 ≠ 0#32 ∧
    (0x00000100#32).toNat % 256 = 0 ∧ 0x00000100#32 ≠ 0#32 := by decide

theorem witness_SubkeyMixing : (17 : Nat) < 18 ∧ (0 : Nat) < 18 := by decide

/-- A key of 73 bytes, one of two copies of a byte, KEYLEN = 56 and the largest KEYLEN. -/
theorem witness_ScheduleLaws :
    (∃ k k' : List Byte, k ≠ [] ∧ k' ≠ [] ∧ k ≠ k' ∧ ∀ j < 72, k.getD (j % k.length) 0#8 = k'.getD (j % k'.length) 0#8) ∧
    72 ≤ (List.replicate 73 1#8 : List Byte).length ∧ ([5#8] : List Byte) ≠ [] ∧ 1 ≤ 2 ∧
    56 ≤ ({ State.reset with keyLen := 56#7 } : State).keyLen.toNat ∧
    56 ≤ ({ State.reset with keyLen := 127#7 } : State).keyLen.toNat :=
  ⟨⟨[7#8], [7#8, 7#8], by decide, by decide, by decide, by decide⟩, by decide, by decide, by decide, by decide, by decide⟩

theorem witness_KeyInitDerivesSchedule :
    let n (l : BitVec 7) : Nat := ({ State.reset with keyLen := l } : State).keyLen.toNat
    (1 ≤ n 1#7 ∧ n 1#7 ≤ 80) ∧ (1 ≤ n 80#7 ∧ n 80#7 ≤ 80) ∧ n 0#7 = 0 ∧ 80 < n 81#7 := by decide

theorem witness_BlockCommands : (keyed State.reset).keyValid = true ∧ State.reset.keyValid = false := ⟨rfl, rfl⟩

/-- A keyed state whose input is `n` zero bytes by length, for the hypotheses of the block modes. -/
def keyedLength (n : Nat) : State := { keyed State.reset with inLen := BitVec.ofNat 12 n }

theorem witness_EcbEncEnciphersBlocks : (keyedLength 1024).keyValid = true ∧ (keyedLength 1024).inLen.toNat = 1024 :=
  ⟨rfl, rfl⟩

theorem witness_EcbDecDeciphersBlocks : (keyedLength 9).keyValid = true ∧ (keyedLength 9).inLen.toNat = 9 := ⟨rfl, rfl⟩

theorem witness_EcbRoundTrip : (keyedLength 0).keyValid = true ∧ (keyedLength 0).inLen.toNat = 0 := ⟨rfl, rfl⟩

theorem witness_CbcEncChainsBlocks : (keyedLength 1024).keyValid = true ∧ (keyedLength 1024).inLen.toNat ≤ 1024 :=
  ⟨rfl, Nat.le_refl _⟩

theorem witness_CbcDecUnchainsBlocks : (keyedLength 8).keyValid = true ∧ (keyedLength 8).inLen.toNat ≤ 1024 :=
  ⟨rfl, by decide⟩

/-- Both parts: the largest INLEN, and the largest one that leaves room for the IV block. -/
theorem witness_CbcRoundTrip : ((keyedLength 1024).keyValid = true ∧ (keyedLength 1024).inLen.toNat ≤ 1024 ∧
    ChainStart.iv ≠ .cont) ∧ (keyedLength 1016).keyValid = true ∧ (keyedLength 1016).inLen.toNat ≤ 1016 :=
  ⟨⟨rfl, Nat.le_refl _, by decide⟩, rfl, Nat.le_refl _⟩

theorem witness_CbcSourceFormsAgree : (keyedLength 5).keyValid = true ∧ (keyedLength 5).inLen.toNat ≤ 1024 :=
  ⟨rfl, by decide⟩

/-- A keyed state whose input is `n` bytes of value 5. -/
def fives (n : Nat) : State := keyed (withInput (List.replicate n 5#8))

theorem fives_cut (n : Nat) (hn : n = 0 ∨ n = 8) : 8 ∣ n ∧ n ≤ (fives 10).inLen.toNat ∧
    (fives (10 - n)).inLen.toNat = (fives 10).inLen.toNat - n ∧
    ∀ k < (fives (10 - n)).inLen.toNat, (fives (10 - n)).byteAt (ibufOff + k) = (fives 10).byteAt (ibufOff + (n + k)) := by
  rcases hn with rfl | rfl <;> decide +kernel

/-- Ten bytes cut at 8 and at 0: the second command runs where the rest of the input is, from the CHAIN that the first
one left, for CBC_ENC with PIV = 1 and for CBC_DEC with DROP = 1. -/
theorem witness_CbcSplits (i : Instr) (n : Nat) (h : (i = .cbcEnc .zero true ∧ (n = 0 ∨ n = 8)) ∨
    (i = .cbcDec .iv true ∧ n = 8) ∨ (i = .cbcDec .cont false ∧ n = 0)) :
    ∃ s a b : State, s.keyValid = true ∧ s.inLen.toNat ≤ 1024 ∧ 8 ∣ n ∧ n ≤ s.inLen.toNat ∧
    a = { s with inLen := BitVec.ofNat 12 n } ∧ b.keyValid = true ∧ b.sched = s.sched ∧
    b.inLen.toNat = s.inLen.toNat - n ∧ (∀ k < b.inLen.toNat, b.byteAt (ibufOff + k) = s.byteAt (ibufOff + (n + k))) ∧
    ∃ first, exec i a = .next first ∧ b.chainL = first.chainL ∧ b.chainR = first.chainR := by
  obtain ⟨first, hf⟩ := exec_next i { fives 10 with inLen := BitVec.ofNat 12 n }
  have hn : n = 0 ∨ n = 8 := by omega
  obtain ⟨h8, hle, hlen, hbytes⟩ := fives_cut n hn
  exact ⟨fives 10, _, { fives (10 - n) with chainL := first.chainL, chainR := first.chainR }, rfl, by decide, h8, hle, rfl,
    rfl, rfl, hlen, hbytes, first, hf, rfl, rfl⟩

theorem witness_CbcDiffersWithTheIv : ∃ s t s' t' : State, s.keyValid = true ∧ t.keyValid = true ∧ s.sched = t.sched ∧
    s.inLen.toNat ≤ 1024 ∧ t.inLen.toNat ≤ 1024 ∧ (s.ivL ≠ t.ivL ∨ s.ivR ≠ t.ivR) ∧
    exec (.cbcEnc .zero true) s = .next s' ∧ exec (.cbcEnc .zero true) t = .next t' := by
  refine ⟨keyedLength 5, { keyed (keyedLength 5) with ivR := 1#32 }, ?_⟩
  obtain ⟨s', hs⟩ := exec_next (.cbcEnc .zero true) (keyedLength 5)
  obtain ⟨t', ht⟩ := exec_next (.cbcEnc .zero true) { keyed (keyedLength 5) with ivR := 1#32 }
  exact ⟨s', t', rfl, rfl, rfl, by decide, by decide, .inr (by decide), hs, ht⟩

theorem witness_XferCopiesOutput : ({ State.reset with outLen := 1024#12 } : State).outLen.toNat ≤ 1024 ∧
    1024 < ({ State.reset with outLen := 1025#12 } : State).outLen.toNat := by decide

/-- A group with one byte: its last character is '=', its first is not. -/
theorem witness_StandardEncodingByIndex : ∃ src : List Byte, 0 < (src.length + 2) / 3 ∧ src.length < 3 * 0 + 3 ∧
    ¬ src.length < 3 * 0 + 0 := ⟨[1#8], by decide⟩

theorem witness_LineWrapByIndex : ∃ e : List Byte, 76 < e.length ∧ 1 ≤ 1 ∧ 76 * 1 < e.length :=
  ⟨List.replicate 77 0x41#8, by decide⟩

theorem witness_B64EncWritesEncoding : (keyedLength 1024).inLen.toNat ≤ 1024 := Nat.le_refl _

/-- Both cases of the decoding: an error, and one group that gives one byte. -/
theorem witness_StandardDecodingByIndex : b64dec [0x5A#8] false = none ∧
    b64dec [0x5A#8, 0x67#8] false = some [0x66#8] ∧ completed [0x5A#8, 0x67#8] ≠ [] ∧
    groupSize (fun i => (completed [0x5A#8, 0x67#8]).getD (4 * ((completed [0x5A#8, 0x67#8]).length / 4 - 1) + i) 0#8)
      = some 1 := by decide +kernel

theorem witness_B64DecWritesDecoding : (withInput [0x5A#8, 0x67#8]).inLen.toNat ≤ 1024 ∧
    b64dec (withInput [0x5A#8, 0x67#8]).input false = some [0x66#8] ∧
    b64dec (withInput [0x5A#8, 0x67#8]).input true = none := by decide +kernel

theorem witness_StandardRoundTrip : 76 < (b64 (List.replicate 58 0#8)).length := by decide +kernel

theorem witness_Lb64EncWritesGroups : (keyedLength 1024).inLen.toNat ≤ 1024 ∧ 0 < pad8 (keyedLength 1024).inLen.toNat / 8 := by
  decide

theorem witness_Lb64DecReadsGroups : (withInput [0x2F#8]).inLen.toNat ≤ 1024 := by decide

/-- An encoded character; a byte of the alphabet and one outside it. -/
theorem witness_LegacyRoundTrip : 0x2E#8 ∈ legEnc [0#8] ∧ legacyPosition 0x5A#8 = 63 ∧ legacyPosition 0x21#8 = 0 := by
  decide +kernel

theorem witness_ErrorsWriteOnlyTheResult : ∃ t : State, exec .ecbEnc State.reset = .next t ∧ t.result ≠ .ok :=
  ⟨_, rfl, by decide⟩

/-- A command of each kind: one that writes IBUF, one that writes OBUF, and one that writes neither. -/
theorem witness_CommandsWriteOnlyTheirOperands :
    (∃ t : State, exec .xfer State.reset = .next t ∧ (∀ c, Instr.xfer ≠ .keyInit c) ∧ writesOutput .xfer = false) ∧
    (∃ t : State, exec (.b64Dec false) (withInput [0x21#8]) = .next t ∧ writesOutput (.b64Dec false) = true) ∧
    ∃ t : State, exec .ivGen State.reset = .next t ∧ Instr.ivGen ≠ .xfer ∧ writesOutput .ivGen = false :=
  ⟨⟨_, rfl, fun _ => nofun, rfl⟩, ⟨(exec_next (.b64Dec false) _).choose, (exec_next (.b64Dec false) _).choose_spec, rfl⟩,
    _, rfl, nofun, rfl⟩

/-- Two states that differ in what CBC_ENC chs=zero does not read, and give OK. -/
theorem witness_CommandsReadOnlyTheirOperands : ∃ s t s' t' : State, s ≠ t ∧ agreeOnReads (.cbcEnc .zero false) s t ∧
    exec (.cbcEnc .zero false) s = .next s' ∧ exec (.cbcEnc .zero false) t = .next t' ∧ s'.result = .ok := by
  refine ⟨keyedLength 0, { keyedLength 0 with ivL := 1#32 }, _, _, ?_, ?_, rfl, rfl, rfl⟩
  · intro h
    have := congrArg State.ivL h
    revert this
    decide
  · exact ⟨⟨rfl, rfl⟩, ⟨rfl, fun _ _ => rfl⟩, fun h => by simp at h, fun h => by simp at h⟩

/-- A step that goes on and one that faults, without a key and unseeded. -/
theorem witness_UnsetScheduleAndSigmaUnobserved : (State.reset.keyValid = false ∧ State.reset.seeded = false) ∧
    (∃ t, step State.reset = .next t) ∧
    ∃ (s : State) (f : Fault), s.keyValid = false ∧ s.seeded = false ∧ step s = .fault f :=
  ⟨⟨rfl, rfl⟩, ⟨_, rfl⟩, { State.reset with pending := [.read .w8 0x000#12] }, _, rfl, rfl, rfl⟩

theorem witness_WrittenBytesDecideTheResult : readsWritten .lb64Dec (withInput [0x2F#8, 0x2E#8]) := by
  unfold readsWritten
  decide +kernel

/-- The invariant holds after reset and a step runs from it. -/
theorem witness_StepKeepsInv : State.reset.Inv ∧ ∃ t, step State.reset = .next t :=
  ⟨⟨by decide, by decide, by decide, by decide, by decide⟩, _, rfl⟩

/-- Each clause: a KEY_INIT, an IV_GEN and a CBC_ENC with an effect, a write of TIME, of KEYLEN and of KEY[79]. -/
theorem witness_OnlyTheirCommandsChangeSpecialState :
    (∃ s t : State, step s = .next t ∧ t.resets = s.resets ∧ t.keyValid ≠ s.keyValid) ∧
    (∃ s t : State, step s = .next t ∧ t.resets = s.resets ∧ t.ctr ≠ s.ctr) ∧
    (∃ s t : State, step s = .next t ∧ t.resets = s.resets ∧ t.chainR ≠ s.chainR) ∧
    (∃ s t : State, step s = .next t ∧ t.resets = s.resets ∧ t.time ≠ s.time) ∧
    (∃ s t : State, step s = .next t ∧ t.resets = s.resets ∧ t.keyLen ≠ s.keyLen) ∧
    ∃ s t : State, step s = .next t ∧ t.resets = s.resets ∧ t.byteAt 0x14F ≠ s.byteAt 0x14F := by
  refine ⟨⟨({ State.reset with keyLen := 1#7 } : State).latchCommand 1#32, _, rfl, rfl, ?_⟩,
    ⟨State.reset.latchCommand 8#32, _, rfl, rfl, ?_⟩,
    ⟨({ keyedLength 0 with ivR := 1#32 } : State).latchCommand 0x106#32, _, rfl, rfl, ?_⟩,
    ⟨{ State.reset with pending := [.write .w32 0x018#12 7#32] }, _, rfl, rfl, ?_⟩,
    ⟨{ State.reset with pending := [.write .w32 0x00C#12 7#32] }, _, rfl, rfl, ?_⟩,
    ⟨{ State.reset with mem := [(0x14F, 1#8)], pending := [.write .w8 0x14F#12 7#32] }, _, rfl, rfl, ?_⟩⟩
  all_goals decide +kernel

end Sys2Proof.Tests
end

/-! The step outside the core's turn, the replies that R239 speaks of, and O5. -/

namespace Sys2Proof.Machine

variable {s : State}

/-! ## Whose turn it is -/

/-- 00_scope.md R12: with no command in flight the step is the outside's. -/
theorem step_eq_hostTurn_of_idle (hb : s.busy = false) : step s = hostTurn s := by
  have hl : s.latched = none := by simpa [State.busy] using hb
  simp only [step, turn, hl]

/-- 70_reset_and_hazards.md R238: while the latency runs the step is the outside's and takes one from it. -/
theorem step_eq_hostTurn_of_waiting {w : Word} {n : Nat} (hl : s.latched = some w) (hw : s.wait = n + 1) :
    step s = hostTurn { s with wait := n } := by
  simp only [step, turn, hl, hw]

theorem hostTurn_of_no_event (hp : s.pending = []) : hostTurn s = .next s := by
  simp only [hostTurn, hp]

theorem hostTurn_of_event {e : HostEvent} {rest : List HostEvent} (hp : s.pending = e :: rest) :
    hostTurn s = serve e { s with pending := rest } := by
  simp only [hostTurn, hp]

/-! ## The end of a run (70_reset_and_hazards.md R239) -/

theorem Reply.isCommand_iff {r : Reply} : r.isCommand = true ↔ ∃ width v, r = .written width 0x004#12 v := by
  cases r <;> simp [Reply.isCommand, cmdOff]

/-- 10_state.md R23: BUSY is bit 0 of STATUS, so BUSY = 0 is that the word read is even. -/
theorem Reply.isIdlePoll_iff {r : Reply} :
    r.isIdlePoll = true ↔ ∃ width v, r = .data width 0x008#12 v ∧ v.toNat % 2 = 0 := by
  cases r with
  | data width off v =>
    have even_iff : v[0] = false ↔ v.toNat % 2 = 0 := by
      simp [BitVec.getElem_eq_testBit_toNat, Nat.testBit_zero]
    simp [Reply.isIdlePoll, statusOff, even_iff]
  | written => simp [Reply.isIdlePoll]

/-- The recursion over the replies says: after every completed write to CMD there is an idle poll. -/
theorem commandsPolled_iff {rs : List Reply} : commandsPolled rs = true ↔
    ∀ earlier r later, rs = earlier ++ r :: later → r.isCommand = true → ∃ p ∈ later, p.isIdlePoll = true := by
  induction rs with
  | nil => simp [commandsPolled]
  | cons a rs ih =>
    simp only [commandsPolled, Bool.and_eq_true, ih, Bool.or_eq_true, Bool.not_eq_true', List.any_eq_true]
    constructor
    · rintro ⟨hfirst, hrest⟩ earlier r later heq hr
      rcases List.cons_eq_append_iff.mp heq with ⟨-, hcons⟩ | ⟨earlier', -, hrs⟩
      · obtain ⟨rfl, rfl⟩ := List.cons.inj hcons
        exact hfirst.resolve_left (by simp [hr])
      · exact hrest earlier' r later hrs hr
    · intro h
      refine ⟨?_, fun earlier r later heq => h (a :: earlier) r later (by simp [heq])⟩
      by_cases ha : a.isCommand = true
      · exact .inr (h [] a rs rfl ha)
      · exact .inl (by simpa using ha)

/-- A run has ended when nothing waits and each completed write to CMD has a read of STATUS with BUSY = 0 after it. -/
theorem runEnded_iff : runEnded s ↔ s.pending = [] ∧ ∀ earlier later width v,
    s.replies = earlier ++ .written width 0x004#12 v :: later →
    ∃ width' v', Reply.data width' 0x008#12 v' ∈ later ∧ v'.toNat % 2 = 0 := by
  rw [runEnded, commandsPolled_iff]
  simp only [Reply.isCommand_iff, Reply.isIdlePoll_iff]
  refine and_congr_right fun _ => ⟨fun h earlier later width v heq => ?_, ?_⟩
  · obtain ⟨-, hmem, width', v', rfl, hv⟩ := h earlier _ later heq ⟨width, v, rfl⟩
    exact ⟨width', v', hmem, hv⟩
  · rintro h earlier - later heq ⟨width, v, rfl⟩
    obtain ⟨width', v', hmem, hv⟩ := h earlier later width v heq
    exact ⟨_, hmem, width', v', rfl, hv⟩

/-- Under the invariant a command in flight has not been polled, so an ended run has none. -/
theorem State.Inv.not_busy_of_runEnded (hs : s.Inv) (he : runEnded s) : s.busy = false := by
  obtain ⟨-, hpolled⟩ := he
  refine Bool.eq_false_iff.mpr fun hb => ?_
  exact absurd (hpolled.symm.trans (hs.busy_unpolled hb)) (by decide)

/-- Settles O5: the four cases of a step that is not the core's, then the end of a run from its two lists. -/
theorem stepServesOutsideOtherwise : Obligations.StepServesOutsideOtherwise := by
  have idle : ∀ s : State, s.busy = false → s.pending = [] → step s = .next s := fun s hb hp =>
    (step_eq_hostTurn_of_idle hb).trans (hostTurn_of_no_event hp)
  refine ⟨?served, ?servedWaiting, idle, ?waited, fun s => runEnded_iff, ?ended⟩
  case served => exact fun s e rest hb hp => (step_eq_hostTurn_of_idle hb).trans (hostTurn_of_event hp)
  case servedWaiting =>
    exact fun s w n e rest hl hw hp => (step_eq_hostTurn_of_waiting hl hw).trans (hostTurn_of_event hp)
  case waited => exact fun s w n hl hw hp => (step_eq_hostTurn_of_waiting hl hw).trans (hostTurn_of_no_event hp)
  case ended =>
    intro s hs he
    have hb : s.busy = false := hs.not_busy_of_runEnded he
    exact ⟨hb, idle s hb he.1⟩

end Sys2Proof.Machine

/-! The invariant of 10_state.md R23, R26, R28 and 20_memory.md R50, over every step (O58, O59). -/

namespace Sys2Proof.Machine

variable {s t : State}

/-! ## Where a step's next state comes from -/

/-- A step performs the command in flight, rejects its word, takes one from its latency, or serves the oldest event from
outside; what an event finds of `s` may differ in the queue and the latency left only. -/
theorem step_sources (h : step s = .next t) :
    (∃ w i code u, s.latched = some w ∧ s.wait = 0 ∧ decode w = .ok i ∧ Effect s i code u ∧ t = u.finish code) ∨
    t = s.finish .illegal ∨
    (∃ n, t = { s with wait := n }) ∨
    ∃ n e rest, s.pending = e :: rest ∧ Served { s with wait := n, pending := rest } e t := by
  cases step_cases h with
  | command hl hw hd he => exact .inl ⟨_, _, _, _, hl, hw, hd, he, rfl⟩
  | illegal => exact .inr (.inl rfl)
  | idle => exact .inr (.inr (.inl ⟨s.wait, rfl⟩))
  | waited => exact .inr (.inr (.inl ⟨_, rfl⟩))
  | served _ hp hs => exact .inr (.inr (.inr ⟨s.wait, _, _, hp, hs⟩))
  | servedWaiting _ _ hp hs => exact .inr (.inr (.inr ⟨_, _, _, hp, hs⟩))

/-! ## The invariant -/

/-- Ending a command keeps the invariant: BUSY is 0 after it. -/
theorem State.Inv.finish (hs : s.Inv) (code : ResultCode) : (s.finish code).Inv where
  ctr_lt := hs.ctr_lt
  outLen_le := hs.outLen_le
  mem_wf := hs.mem_wf
  mem_inBuffer := hs.mem_inBuffer
  busy_unpolled hb := by simp at hb

/-- The invariant does not speak of the latency left or of the queue. -/
theorem State.Inv.set_wait_pending (hs : s.Inv) (n : Nat) (rest : List HostEvent) :
    ({ s with wait := n, pending := rest } : State).Inv where
  ctr_lt := hs.ctr_lt
  outLen_le := hs.outLen_le
  mem_wf := hs.mem_wf
  mem_inBuffer := hs.mem_inBuffer
  busy_unpolled := hs.busy_unpolled

/-- Settles O59: each source of a next state keeps the invariant. -/
theorem stepKeepsInv : Obligations.StepKeepsInv := by
  intro s t hs h
  rcases step_sources h with ⟨w, i, code, u, -, -, -, he, rfl⟩ | rfl | ⟨n, rfl⟩ | ⟨n, e, rest, -, he⟩
  · exact he.inv hs
  · exact hs.finish _
  · exact hs.set_wait_pending n s.pending
  · exact he.inv (hs.set_wait_pending n rest)

/-- Settles O58: after reset the two registers are 0, no byte is stored and no command is in flight. -/
theorem resetMeetsInv : Obligations.ResetMeetsInv where
  ctr_lt := by decide
  outLen_le := Nat.zero_le _
  mem_wf := List.Pairwise.nil
  mem_inBuffer _ hc := nomatch hc
  busy_unpolled hb := nomatch hb

end Sys2Proof.Machine

/-! Register accesses at the window, and the STATUS word (O6, O10, O11, O12). -/

namespace Sys2Proof.Machine

variable {s : State} {off : BitVec 12} {v : Word}

/-- 20_memory.md R52, R55: an aligned 32-bit write of a register while BUSY = 0 reaches the register. -/
theorem serve_write_register_idle (hb : s.busy = false) (ha : off.toNat < 0x100) (h4 : off.toNat % 4 = 0) :
    serve (.write .w32 off v) s = .next ((s.writeRegister off.toNat v).reply (.written .w32 off v)) := by
  simp [serve, legalAccess, widthBytes, h4, State.serveWrite, State.writeValue, hb, ha]

/-- 20_memory.md R52, R55: an aligned 32-bit read of a register while BUSY = 0 answers the register. -/
theorem serve_read_register_idle (hb : s.busy = false) (ha : off.toNat < 0x100) (h4 : off.toNat % 4 = 0) :
    serve (.read .w32 off) s = .next (s.reply (.data .w32 off (s.readRegister off.toNat))) := by
  simp [serve, legalAccess, widthBytes, h4, State.serveRead, State.readValue, hb, ha]

/-- 70_reset_and_hazards.md R232: while BUSY = 1 a legal write of anything but STATUS is dropped. -/
theorem serve_write_busy {width : Width} (hb : s.busy = true) (hl : legalAccess width off = true)
    (ho : off ≠ statusOff) :
    serve (.write width off v) s = .next (s.dropWrite.reply (.written width off v)) := by
  simp [serve, hl, State.serveWrite, hb, ho]

/-- Settles O6: offset 0x004 of the register map is the issue of a command, which `State.issue` writes out. -/
theorem cmdWriteIssuesCommand : Obligations.CmdWriteIssuesCommand := fun _ _ =>
  ⟨fun hb => serve_write_register_idle hb (by decide) (by decide),
   fun hb => serve_write_busy hb (by decide) (by decide)⟩

/-- Settles O10: offset by offset the register map gives the value listed, the narrow registers zero-extended. -/
theorem registerReadsReturnValues : Obligations.RegisterReadsReturnValues := by
  intro s off v hb hmem
  have answers (ha : off.toNat < 0x100) (h4 : off.toNat % 4 = 0) (hv : s.readRegister off.toNat = v) :
      serve (.read .w32 off) s = .next { s with replies := s.replies ++ [.data .w32 off v] } :=
    hv ▸ serve_read_register_idle hb ha h4
  simp only [List.mem_cons, List.not_mem_nil, or_false, Prod.mk.injEq, BitVec.ofNat_toNat] at hmem
  rcases hmem with ⟨rfl, rfl⟩ | ⟨rfl, rfl⟩ | ⟨rfl, rfl⟩ | ⟨rfl, rfl⟩ | ⟨rfl, rfl⟩ | ⟨rfl, rfl⟩ | ⟨rfl, rfl⟩ |
    ⟨rfl, rfl⟩ | ⟨rfl, rfl⟩ | ⟨rfl, rfl⟩ | ⟨rfl, rfl⟩ | ⟨rfl, rfl⟩ | ⟨rfl, rfl⟩ | ⟨rfl, rfl⟩ <;>
  exact answers (by decide) (by decide) rfl

/-- The low `n` bits of a word, by number. -/
theorem extractLsb'_zero_eq_ofNat (v : Word) (n : Nat) : v.extractLsb' 0 n = BitVec.ofNat n (v.toNat % 2 ^ n) :=
  BitVec.eq_of_toNat_eq (by simp)

/-- Settles O12: one read-write register after the other; KEYLEN keeps the low 7 bits and INLEN the low 12. -/
theorem registerWritesStore : Obligations.RegisterWritesStore := by
  intro s v hb
  have keyLen : v.extractLsb' 0 7 = BitVec.ofNat 7 (v.toNat % 128) := extractLsb'_zero_eq_ofNat v 7
  have inLen : v.extractLsb' 0 12 = BitVec.ofNat 12 (v.toNat % 4096) := extractLsb'_zero_eq_ofNat v 12
  rw [← keyLen, ← inLen]
  refine ⟨?_, ?_, ?_, ?_, ?_, ?_, ?_⟩
  all_goals exact serve_write_register_idle hb (by decide) (by decide)

/-- 10_state.md R23: the fields of a STATUS word do not overlap, so they add up. -/
theorem statusFields_toNat : ∀ (code : BitVec 4) (busyErr seeded keyValid busy : Bool),
    (code.setWidth 32 <<< 8 ||| (BitVec.ofBool busyErr).setWidth 32 <<< 3 ||| (BitVec.ofBool seeded).setWidth 32 <<< 2
      ||| (BitVec.ofBool keyValid).setWidth 32 <<< 1 ||| (BitVec.ofBool busy).setWidth 32 : Word).toNat
      = (if busy then 1 else 0) + (if keyValid then 2 else 0) + (if seeded then 4 else 0) + (if busyErr then 8 else 0)
        + 256 * code.toNat := by
  decide

/-- Settles O11: the fields add up, and the code of each result is its number in 60_exceptions.md R201. -/
theorem statusWordLayout : Obligations.StatusWordLayout := by
  intro s
  rw [State.statusWord, statusFields_toNat]
  cases s.result <;> rfl

end Sys2Proof.Machine

/-! Which commands and writes change the special state (O60): the frame of a command, the frame of an access, and both
together over a step. -/

namespace Sys2Proof.Machine

variable {s t : State} {i : Instr} {code : ResultCode} {e : HostEvent}

/-! ## What a command leaves unchanged (30_encoding.md R86) -/

/-- 10_state.md R35: the schedule or KEYVALID changes by a successful KEY_INIT only, which sets KEYVALID. -/
theorem Effect.keyInit_of_changed (h : Effect s i code t) (hne : t.sched ≠ s.sched ∨ t.keyValid ≠ s.keyValid) :
    ∃ c, i = .keyInit c ∧ code = .ok ∧ t.keyValid = true := by
  cases h with
  | keyInit c => exact ⟨c, rfl, rfl, rfl⟩
  | _ => exact absurd hne (by simp)

/-- 10_state.md R28, R36: CTR, σ or SEEDED changes by IV_GEN only. -/
theorem Effect.ivGen_of_changed (h : Effect s i code t)
    (hne : t.ctr ≠ s.ctr ∨ t.sigma ≠ s.sigma ∨ t.seeded ≠ s.seeded) : i = .ivGen := by
  cases h with
  | ivGen => rfl
  | _ => exact absurd hne (by simp)

/-- 10_state.md R30: CHAIN changes by CBC_ENC and CBC_DEC only. -/
theorem Effect.cbc_of_changed (h : Effect s i code t) (hne : t.chainL ≠ s.chainL ∨ t.chainR ≠ s.chainR) :
    (∃ c p, i = .cbcEnc c p) ∨ ∃ c d, i = .cbcDec c d := by
  cases h with
  | output _ _ _ c hc => exact hc.resolve_left fun h => absurd hne (by simp [h, State.chain])
  | _ => exact absurd hne (by simp)

/-- 10_state.md R24, R27: no command changes KEYLEN or TIME. -/
theorem Effect.keyLen_time_unchanged (h : Effect s i code t) : t.keyLen = s.keyLen ∧ t.time = s.time := by
  cases h <;> exact ⟨rfl, rfl⟩

/-- 10_state.md R32: no command stores a byte below IBUF, so none in KEY. -/
theorem Effect.byteAt_of_lt_ibufOff (h : Effect s i code t) {a : Nat} (ha : a < ibufOff) :
    t.byteAt a = s.byteAt a := by
  have ha' : a < obufOff := lt_trans ha (by decide)
  cases h with
  | output => rw [State.putChain_byteAt, byteAt_putOutput, if_neg (by omega)]
  | xfer => exact (State.byteAt_writeBytes (s := s)).trans (if_neg (by omega))
  | _ => rfl

/-! ## What an access leaves unchanged (10_state.md R21 to R31, 20_memory.md R55) -/

/-- Only a reset counts as one. -/
theorem Served.ne_reset (h : Served s e t) (hr : t.resets = s.resets) : e ≠ .reset := by
  rintro rfl
  cases h
  simp at hr

/-- No register write of the host reaches the schedule, σ, KEYVALID, SEEDED, CTR or CHAIN. -/
theorem Served.special_unchanged (h : Served s e t) (he : e ≠ .reset) :
    (t.sched = s.sched ∧ t.keyValid = s.keyValid) ∧ (t.ctr = s.ctr ∧ t.sigma = s.sigma ∧ t.seeded = s.seeded) ∧
      t.chainL = s.chainL ∧ t.chainR = s.chainR := by
  cases h with
  | register off v _ ho =>
    rcases writeRegister_cases s off v ho with ⟨-, h⟩ | ⟨-, h⟩ | ⟨-, h⟩ | ⟨_, _, _, _, _, h⟩ <;> simp [h]
  | reset => exact absurd rfl he
  | _ => exact ⟨⟨rfl, rfl⟩, ⟨rfl, rfl, rfl⟩, rfl, rfl⟩

/-- 10_state.md R27: TIME takes the word that the host writes to it. -/
theorem Served.time_of_changed (h : Served s e t) (he : e ≠ .reset) (hne : t.time ≠ s.time) :
    s.busy = false ∧ e = .write .w32 0x018#12 t.time := by
  cases h with
  | register off v hb ho =>
    rcases writeRegister_cases s off v ho with ⟨-, h⟩ | ⟨-, h⟩ | ⟨rfl, h⟩ | ⟨_, _, _, _, _, h⟩
    case inr.inr.inl => exact ⟨hb, by rw [h]; rfl⟩
    all_goals exact absurd (by rw [h]; rfl) hne
  | reset => exact absurd rfl he
  | _ => exact absurd rfl hne

/-- 10_state.md R24: KEYLEN changes by a write of the host to it. -/
theorem Served.keyLen_of_changed (h : Served s e t) (he : e ≠ .reset) (hne : t.keyLen ≠ s.keyLen) :
    s.busy = false ∧ ∃ v, e = .write .w32 0x00C#12 v := by
  cases h with
  | register off v hb ho =>
    rcases writeRegister_cases s off v ho with ⟨-, h⟩ | ⟨rfl, h⟩ | ⟨-, h⟩ | ⟨_, _, _, _, _, h⟩
    case inr.inl => exact ⟨hb, v, rfl⟩
    all_goals exact absurd (by rw [h]; rfl) hne
  | reset => exact absurd rfl he
  | _ => exact absurd rfl hne

/-- 10_state.md R32: a stored byte changes by a write of the host to it. -/
theorem Served.byteAt_of_changed (h : Served s e t) (he : e ≠ .reset) {a : Nat} (hne : t.byteAt a ≠ s.byteAt a) :
    s.busy = false ∧ ∃ width off v, e = .write width off v ∧ off.toNat ≤ a ∧ a < off.toNat + widthBytes width := by
  cases h with
  | register off v _ ho =>
    rcases writeRegister_cases s off v ho with ⟨-, h⟩ | ⟨-, h⟩ | ⟨-, h⟩ | ⟨_, _, _, _, _, h⟩ <;>
      exact absurd (by rw [h]; rfl) hne
  | buffer width off v hb =>
    refine ⟨hb, width, off, v, rfl, ?_⟩
    by_contra hout
    exact hne (State.byteAt_writeBytes.trans (if_neg (by simpa [laneBytes] using hout)))
  | reset => exact absurd rfl he
  | _ => exact absurd rfl hne

/-! ## The step -/

/-- Settles O60: a performed command changes what its effect allows, an access what the host writes, and every other
step nothing of the special state. -/
theorem onlyTheirCommandsChangeSpecialState : Obligations.OnlyTheirCommandsChangeSpecialState := by
  intro s t h hr performs
  rcases step_sources h with ⟨w, i, code, u, hl, hw, hd, he, rfl⟩ | rfl | ⟨n, rfl⟩ | ⟨n, e, rest, hp, he⟩
  case inl =>
    have hi : performs i := ⟨w, hl, hw, hd⟩
    obtain ⟨hkeyLen, htime⟩ := he.keyLen_time_unchanged
    refine ⟨fun hne => ?_, fun hne => he.ivGen_of_changed hne ▸ hi, fun hne => ?_, fun hne => absurd htime hne,
      fun hne => absurd hkeyLen hne, fun a _ ha hne => absurd (he.byteAt_of_lt_ibufOff ?_) hne⟩
    · obtain ⟨c, rfl, rfl, hk⟩ := he.keyInit_of_changed hne
      exact ⟨c, hi, rfl, hk⟩
    · rcases he.cbc_of_changed hne with ⟨c, f, rfl⟩ | ⟨c, f, rfl⟩
      · exact ⟨c, f, .inl hi⟩
      · exact ⟨c, f, .inr hi⟩
    · exact lt_trans ha (by decide)
  case inr.inr.inr =>
    have hne_reset : e ≠ .reset := he.ne_reset hr
    have hhead : s.pending.head? = some e := by rw [hp]; rfl
    obtain ⟨⟨hsched, hkey⟩, ⟨hctr, hsigma, hseeded⟩, hchain⟩ := he.special_unchanged hne_reset
    rw [hhead]
    refine ⟨fun hne => ?_, fun hne => ?_, fun hne => ?_, fun hne => ?_, fun hne => ?_, fun a _ _ hne => ?_⟩
    · exact absurd hne (by simp [hsched, hkey])
    · exact absurd hne (by simp [hctr, hsigma, hseeded])
    · exact absurd hne (by simp [hchain])
    · obtain ⟨hb, he⟩ := he.time_of_changed hne_reset hne
      exact ⟨hb, congrArg some he⟩
    · obtain ⟨hb, v, he⟩ := he.keyLen_of_changed hne_reset hne
      exact ⟨hb, v, congrArg some he⟩
    · obtain ⟨hb, width, off, v, he, hin⟩ := he.byteAt_of_changed hne_reset hne
      exact ⟨hb, width, off, v, congrArg some he, hin⟩
  all_goals exact ⟨by simp, by simp, by simp, by simp, by simp, fun a _ _ hne => absurd rfl hne⟩

end Sys2Proof.Machine

/-! What the schedule holds without a key and what σ holds unseeded reaches nothing but itself (O56). -/

namespace Sys2Proof.Machine

variable {s : State} {g : Schedule → Schedule} {h : Nat → Nat} {i : Instr}

/-- The state with other contents of the schedule RAM and another σ: O56 overwrites the one or the other. -/
def State.mapHidden (g : Schedule → Schedule) (h : Nat → Nat) (s : State) : State :=
  { s with sched := g s.sched, sigma := h s.sigma }

/-- An outcome with its next state, if it has one, put through `f`. -/
def mapNext (f : State → State) : Host.Outcome State Fault Refusal → Host.Outcome State Fault Refusal
  | .next s => .next (f s)
  | .fault r => .fault r
  | .refused r => .refused r

/-- `o'` cannot be told from `o`, but for what `f` overwrites, as long as `flag` says that it is unset. -/
def Unobserved (f : State → State) (flag : State → Bool) (o o' : Host.Outcome State Fault Refusal) : Prop :=
  o' = o ∨ (o' = mapNext f o ∧ ∀ t, o = .next t → flag t = false)

/-! ## The commands -/

/-- A check that two states pass alike, each of its branches put through `f`. -/
theorem ite_eq_apply_ite {α β : Type} {c c' : Prop} {_ : Decidable c} {_ : Decidable c'} {f : α → β} {x y : α}
    {x' y' : β} (hc : c' ↔ c) (hx : c → x' = f x) (hy : ¬ c → y' = f y) :
    (if c' then x' else y') = f (if c then x else y) := by
  by_cases h : c
  · rw [if_pos h, if_pos (hc.mpr h), hx h]
  · rw [if_neg h, if_neg (h ∘ hc.mp), hy h]

/-- The block-mode commands look at the schedule after their key check only. -/
theorem withKeyAndInput_mapHidden {body body' : Host.Outcome State Fault Refusal} (hg : g = id ∨ s.keyValid = false)
    (hbody : g = id → body' = mapNext (.mapHidden g h) body) :
    withKeyAndInput (s.mapHidden g h) body' = mapNext (.mapHidden g h) (withKeyAndInput s body) :=
  ite_eq_apply_ite .rfl (fun _ => rfl) fun hk =>
    ite_eq_apply_ite .rfl (fun _ => rfl) fun _ => hbody (hg.resolve_right (by simpa using hk))

theorem blockCommand_mapHidden (f : Schedule → Block → Block) (hg : g = id ∨ s.keyValid = false) :
    blockCommand f (s.mapHidden g h) = mapNext (.mapHidden g h) (blockCommand f s) :=
  ite_eq_apply_ite .rfl (fun hk => by obtain rfl := hg.resolve_right (by simp [hk]); rfl) fun _ => rfl

theorem encodeCommand_mapHidden (f : List Byte → List Byte) :
    encodeCommand f (s.mapHidden g h) = mapNext (.mapHidden g h) (encodeCommand f s) :=
  ite_eq_apply_ite .rfl (fun _ => rfl) fun _ => ite_eq_apply_ite .rfl (fun _ => rfl) fun _ => rfl

/-- A command does what it did, whatever the schedule without a key and σ hold, if it is not the one that sets them. -/
theorem exec_mapHidden (hg : g = id ∨ s.keyValid = false) (hi : ∀ c, i = .keyInit c → g = id)
    (hh : i = .ivGen → h = id) : exec i (s.mapHidden g h) = mapNext (.mapHidden g h) (exec i s) := by
  cases i with
  | nop => rfl
  | keyInit c =>
    obtain rfl := hi c rfl
    refine ite_eq_apply_ite .rfl (fun _ => rfl) fun _ => ?_
    rw [show (s.mapHidden id h).effectiveKey c = s.effectiveKey c from rfl]
    generalize schedule initTables (s.effectiveKey c) = sc
    rfl
  | encBlk => exact blockCommand_mapHidden _ hg
  | decBlk => exact blockCommand_mapHidden _ hg
  | ecbEnc => exact withKeyAndInput_mapHidden hg (by rintro rfl; rfl)
  | ecbDec => exact withKeyAndInput_mapHidden hg (by rintro rfl; rfl)
  | cbcEnc chs piv => exact withKeyAndInput_mapHidden hg (by rintro rfl; cases chs <;> rfl)
  | cbcDec chs drop => exact withKeyAndInput_mapHidden hg (by rintro rfl; cases chs <;> rfl)
  | ivGen =>
    obtain rfl := hh rfl
    rfl
  | b64Enc wrap => exact encodeCommand_mapHidden (fun src => if wrap then wrap76 (b64 src) else b64 src)
  | b64Dec strict =>
    refine ite_eq_apply_ite .rfl (fun _ => rfl) fun _ => ?_
    rw [show (s.mapHidden g h).input = s.input from rfl]
    cases b64dec s.input strict <;> rfl
  | lb64Enc => exact encodeCommand_mapHidden legEnc
  | lb64Dec => exact ite_eq_apply_ite .rfl (fun _ => rfl) fun _ => rfl
  | xfer => exact ite_eq_apply_ite .rfl (fun _ => rfl) fun _ => rfl

/-- 60_exceptions.md R202: without a key a command neither tells what the schedule holds nor, unless it is a KEY_INIT
that computes it anew, changes it. -/
theorem exec_sched_unobserved (hk : s.keyValid = false) (sc : Schedule) (i : Instr) :
    Unobserved (.mapHidden (fun _ => sc) id) State.keyValid (exec i s) (exec i (s.mapHidden (fun _ => sc) id)) := by
  by_cases hi : ∃ c, i = .keyInit c
  · obtain ⟨c, rfl⟩ := hi
    by_cases hlen : s.keyLen.toNat = 0 ∨ s.keyLen.toNat > Config.keyBytes
    · have fails (u : State) (hu : u.keyLen = s.keyLen) : exec (.keyInit c) u = raise .keyLen u := if_pos (hu ▸ hlen)
      rw [fails s rfl, fails (s.mapHidden _ _) rfl]
      exact .inr ⟨rfl, by rintro t ⟨⟩; exact hk⟩
    · exact .inl ((if_neg hlen).trans (if_neg hlen).symm)
  · refine .inr ⟨exec_mapHidden (.inr hk) (fun c hc => absurd ⟨c, hc⟩ hi) (fun _ => rfl), fun t ht => ?_⟩
    obtain ⟨u, code, rfl, he⟩ := effect_of_exec ht
    by_contra hu
    obtain ⟨c, hc, -, -⟩ := he.keyInit_of_changed (.inr fun h => hu (h.trans hk))
    exact hi ⟨c, hc⟩

/-- 10_state.md R36: unseeded a command neither tells what σ holds nor, unless it is IV_GEN, which seeds it, changes
it. -/
theorem exec_sigma_unobserved (hs : s.seeded = false) (sigma : Nat) (i : Instr) :
    Unobserved (.mapHidden id (fun _ => sigma)) State.seeded (exec i s) (exec i (s.mapHidden id (fun _ => sigma))) := by
  by_cases hi : i = .ivGen
  · subst hi
    have hsigma : (s.mapHidden id (fun _ => sigma)).seededSigma = s.seededSigma := by
      simp [State.seededSigma, State.mapHidden, hs]
    left
    simp only [exec, execIvGen, hsigma]
    rfl
  · refine .inr ⟨exec_mapHidden (.inl rfl) (fun _ _ => rfl) (fun h => absurd h hi), fun t ht => ?_⟩
    obtain ⟨u, code, rfl, he⟩ := effect_of_exec ht
    by_contra hu
    exact hi (he.ivGen_of_changed (.inr (.inr fun h => hu (h.trans hs))))

/-! ## The accesses -/

theorem readValue_mapHidden (width : Width) (off : BitVec 12) :
    (s.mapHidden g h).readValue width off = s.readValue width off := by
  have hreg (a : Nat) : (s.mapHidden g h).readRegister a = s.readRegister a := by
    unfold State.readRegister
    split <;> rfl
  have hlanes (a : Nat) : (s.mapHidden g h).readLanes width a = s.readLanes width a := by cases width <;> rfl
  simp only [State.readValue, hreg, hlanes]

theorem writeValue_mapHidden (width : Width) (off : BitVec 12) (v : Word) :
    (s.mapHidden g h).writeValue width off v = (s.writeValue width off v).mapHidden g h := by
  have hreg (a : Nat) : (s.mapHidden g h).writeRegister a v = (s.writeRegister a v).mapHidden g h := by
    unfold State.writeRegister
    split <;> rfl
  exact ite_eq_apply_ite .rfl (fun _ => hreg _) fun _ => ite_eq_apply_ite .rfl (fun _ => rfl) fun _ => rfl

theorem serveRead_mapHidden (width : Width) (off : BitVec 12) :
    (s.mapHidden g h).serveRead width off = (s.serveRead width off).mapHidden g h :=
  ite_eq_apply_ite .rfl (fun _ => rfl) fun _ => by rw [readValue_mapHidden]; rfl

theorem serveWrite_mapHidden (width : Width) (off : BitVec 12) (v : Word) :
    (s.mapHidden g h).serveWrite width off v = (s.serveWrite width off v).mapHidden g h :=
  ite_eq_apply_ite .rfl (fun _ => rfl) fun _ => by rw [writeValue_mapHidden]; rfl

/-- No legal access meets the schedule or σ, and a fault depends on the access only. -/
theorem serve_mapHidden {e : HostEvent} (he : e ≠ .reset) :
    serve e (s.mapHidden g h) = mapNext (.mapHidden g h) (serve e s) := by
  cases e with
  | read width off =>
    exact ite_eq_apply_ite .rfl (fun _ => congrArg _ (serveRead_mapHidden width off)) fun _ => rfl
  | write width off v =>
    exact ite_eq_apply_ite .rfl (fun _ => congrArg _ (serveWrite_mapHidden width off v)) fun _ => rfl
  | reset => exact absurd rfl he

/-! ## The step -/

variable {flag : State → Bool}

/-- The outside's turn: a reset overwrites both, and no other event sets KEYVALID or SEEDED. -/
theorem hostTurn_unobserved (hflag : flag = State.keyValid ∨ flag = State.seeded) (hs : flag s = false) :
    Unobserved (.mapHidden g h) flag (hostTurn s) (hostTurn (s.mapHidden g h)) := by
  cases hp : s.pending with
  | nil =>
    rw [hostTurn_of_no_event hp, hostTurn_of_no_event (s := s.mapHidden g h) hp]
    exact .inr ⟨rfl, by rintro t ⟨⟩; exact hs⟩
  | cons e rest =>
    rw [hostTurn_of_event hp, hostTurn_of_event (s := s.mapHidden g h) hp]
    by_cases he : e = .reset
    · exact .inl (by rw [he]; rfl)
    · refine .inr ⟨serve_mapHidden (s := { s with pending := rest }) he, fun t ht => ?_⟩
      obtain ⟨⟨-, hkey⟩, ⟨-, -, hseeded⟩, -⟩ := (serve_cases ht).special_unchanged he
      rcases hflag with rfl | rfl
      · exact hkey.trans hs
      · exact hseeded.trans hs

/-- What the commands do not observe, a whole step does not. -/
theorem step_unobserved (hflag : flag = State.keyValid ∨ flag = State.seeded) (hs : flag s = false)
    (hexec : ∀ i, Unobserved (.mapHidden g h) flag (exec i s) (exec i (s.mapHidden g h))) :
    Unobserved (.mapHidden g h) flag (step s) (step (s.mapHidden g h)) := by
  cases hl : s.latched with
  | none =>
    have hb : s.busy = false := by simp [State.busy, hl]
    rw [step_eq_hostTurn_of_idle hb, step_eq_hostTurn_of_idle (s := s.mapHidden g h) hb]
    exact hostTurn_unobserved hflag hs
  | some w =>
    cases hw : s.wait with
    | zero =>
      have performs (s' : State) (hl : s'.latched = some w) (hw : s'.wait = 0) : step s' = perform w s' := by
        simp only [step, turn, hl, hw]
      rw [performs s hl hw, performs (s.mapHidden g h) hl hw]
      unfold perform
      cases decode w with
      | ok i => exact hexec i
      | error r => exact .inr ⟨rfl, by rintro t ⟨⟩; rcases hflag with rfl | rfl <;> exact hs⟩
    | succ n =>
      rw [step_eq_hostTurn_of_waiting hl hw, step_eq_hostTurn_of_waiting (s := s.mapHidden g h) hl hw]
      exact hostTurn_unobserved (s := { s with wait := n }) hflag (by rcases hflag with rfl | rfl <;> exact hs)

/-! ## O56 -/

theorem Unobserved.next {f : State → State} {o o' : Host.Outcome State Fault Refusal} {t : State}
    (hu : Unobserved f flag o o') (ht : o = .next t) : ∃ u, o' = .next u ∧ (t = u ∨ (u = f t ∧ flag t = false)) := by
  rcases hu with rfl | ⟨rfl, hf⟩
  · exact ⟨t, ht, .inl rfl⟩
  · exact ⟨f t, by rw [ht]; rfl, .inr ⟨rfl, hf t ht⟩⟩

theorem Unobserved.fault {f : State → State} {o o' : Host.Outcome State Fault Refusal} {r : Fault}
    (hu : Unobserved f flag o o') (hr : o = .fault r) : o' = .fault r := by
  rcases hu with rfl | ⟨rfl, -⟩
  · exact hr
  · rw [hr]; rfl

/-- Settles O56: a command completes and does not observe what is unset, and so no step does. -/
theorem unsetScheduleAndSigmaUnobserved : Obligations.UnsetScheduleAndSigmaUnobserved := by
  refine ⟨fun i s sc sigma => ⟨fun hk => ?_, fun hs => ?_⟩, fun s sc sigma => ⟨fun hk => ?_, fun hs => ?_⟩⟩
  · obtain ⟨t, code, ht, -⟩ := exec_effect i s
    exact ⟨_, (exec_sched_unobserved hk sc i).next ht |>.imp fun _ => And.intro ht⟩
  · obtain ⟨t, code, ht, -⟩ := exec_effect i s
    exact ⟨_, (exec_sigma_unobserved hs sigma i).next ht |>.imp fun _ => And.intro ht⟩
  · have hu := step_unobserved (.inl rfl) hk (exec_sched_unobserved hk sc)
    exact ⟨fun t ht => hu.next ht, fun f hf => hu.fault hf⟩
  · have hu := step_unobserved (.inr rfl) hs (exec_sigma_unobserved hs sigma)
    exact ⟨fun t ht => hu.next ht, fun f hf => hu.fault hf⟩

end Sys2Proof.Machine

/-! The window: which accesses are legal, and what a legal one does in each region (O8, O9, O13 to O16, O21). -/

namespace Sys2Proof.Machine

variable {s t : State} {e : HostEvent} {width : Width} {off : BitVec 12} {v : Word}

/-! ## While a command is in flight (20_memory.md R60, R63) -/

/-- 70_reset_and_hazards.md R232, R233: while BUSY = 1 an access drops its write or answers its read, so that of the FBC
it can change BUSYERR only. -/
theorem Served.unchanged_of_busy (h : Served s e t) (hb : s.busy = true) (he : e ≠ .reset) :
    t = { s with busyErr := t.busyErr, replies := t.replies, draws := t.draws } := by
  have not_idle {p : Prop} (hidle : s.busy = false) : p := absurd (hidle.symm.trans hb) (by decide)
  cases h with
  | read => rfl
  | dropped => rfl
  | status => rfl
  | register _ _ hidle => exact not_idle hidle
  | buffer _ _ _ hidle => exact not_idle hidle
  | ignored _ _ _ hidle => exact not_idle hidle
  | reset => exact absurd rfl he

/-- Settles O8: a step within the latency serves an access while BUSY = 1, or there is none. -/
theorem inputsCannotChangeWhileBusy : Obligations.InputsCannotChangeWhileBusy := by
  intro s t w n hl hw hreset h
  rw [step_eq_hostTurn_of_waiting hl hw] at h
  cases hp : s.pending with
  | nil =>
    rw [hostTurn_of_no_event (s := { s with wait := n }) hp] at h
    cases h
    rw [List.tail_nil, ← hp]
  | cons e rest =>
    rw [hostTurn_of_event (s := { s with wait := n }) hp] at h
    have hb : s.busy = true := by simp [State.busy, hl]
    have he : e ≠ .reset := by simpa [hp] using hreset
    exact (serve_cases h).unchanged_of_busy hb he

/-! ## Legal and illegal accesses (20_memory.md R52, R53, R57) -/

/-- The accesses that R52 makes illegal in the register region and R53 in the buffer regions. -/
theorem legalAccess_eq_false_iff : legalAccess width off = false ↔
    (off.toNat < 0x100 ∧ (width ≠ .w32 ∨ off.toNat % 4 ≠ 0)) ∨
      (0x100 ≤ off.toNat ∧ off.toNat % widthBytes width ≠ 0) := by
  simp only [legalAccess, Bool.and_eq_false_iff, Bool.or_eq_false_iff, beq_eq_false_iff_ne, decide_eq_false_iff_not]
  cases width <;> simp [widthBytes] <;> omega

theorem serve_read_illegal (hl : legalAccess width off = false) :
    serve (.read width off) s = .fault (.busError (.read width off)) := by simp [serve, hl]

theorem serve_write_illegal (hl : legalAccess width off = false) :
    serve (.write width off v) s = .fault (.busError (.write width off v)) := by simp [serve, hl]

theorem serve_read_legal (hl : legalAccess width off = true) :
    serve (.read width off) s = .next (s.serveRead width off) := by simp [serve, hl]

theorem serve_write_legal (hl : legalAccess width off = true) :
    serve (.write width off v) s = .next (s.serveWrite width off v) := by simp [serve, hl]

theorem widthBytes_dvd_four : widthBytes width ∣ 4 := by cases width <;> decide

/-- R53: a legal access stays below every multiple of 4 that it starts below. -/
theorem legalAccess_le_of_lt {b : Nat} (hl : legalAccess width off = true) (h4 : 4 ∣ b) (hlt : off.toNat < b) :
    off.toNat + widthBytes width ≤ b := by
  have hoff : widthBytes width ∣ off.toNat := Nat.dvd_of_mod_eq_zero (legalAccess_aligned hl)
  exact Nat.le_of_lt_add_of_dvd (Nat.add_lt_add_right hlt _) (hoff.add (dvd_refl _)) (widthBytes_dvd_four.trans h4)

/-- Settles O9: the illegal accesses are those of R52 and R53, and every region boundary is a multiple of 4. -/
theorem busErrorExactlyOnIllegalAccess : Obligations.BusErrorExactlyOnIllegalAccess := by
  intro s width off v illegal
  have legal (h : ¬ illegal) : legalAccess width off = true :=
    Bool.eq_true_of_not_eq_false fun hf => h (legalAccess_eq_false_iff.mp hf)
  refine ⟨fun h => ?faults, fun h => ?completes, fun h b hb => ?within⟩
  case faults =>
    have hl : legalAccess width off = false := legalAccess_eq_false_iff.mpr h
    exact ⟨serve_read_illegal hl, serve_write_illegal hl⟩
  case completes => exact ⟨⟨_, serve_read_legal (legal h)⟩, ⟨_, serve_write_legal (legal h)⟩⟩
  case within =>
    have boundaries : ∀ b ∈ [0x100, 0x150, 0x400, 0x800, 0x1000], 4 ∣ b := by decide
    exact legalAccess_le_of_lt (legal h) (boundaries b hb)

/-! ## Legal accesses while BUSY = 0, region by region (20_memory.md R50, R54, R55, R56) -/

theorem serve_read_idle (hb : s.busy = false) (hl : legalAccess width off = true) :
    serve (.read width off) s = .next (s.reply (.data width off (s.readValue width off))) := by
  simp [serve_read_legal hl, State.serveRead, hb]

theorem serve_write_idle (hb : s.busy = false) (hl : legalAccess width off = true) :
    serve (.write width off v) s = .next ((s.writeValue width off v).reply (.written width off v)) := by
  simp [serve_write_legal hl, State.serveWrite, hb]

theorem readValue_register (ha : off.toNat < 0x100) : s.readValue width off = s.readRegister off.toNat := by
  simp [State.readValue, ha]

theorem readValue_buffer (ha : (0x100 ≤ off.toNat ∧ off.toNat < 0x150) ∨ 0x400 ≤ off.toNat) :
    s.readValue width off = s.readLanes width off.toNat := by
  have hin : inBuffer off.toNat = true := inBuffer_iff.mpr (by omega)
  have hreg : ¬ off.toNat < 0x100 := by omega
  simp [State.readValue, hreg, hin]

theorem writeValue_register (ha : off.toNat < 0x100) : s.writeValue width off v = s.writeRegister off.toNat v := by
  simp [State.writeValue, ha]

theorem writeValue_buffer (ha : (0x100 ≤ off.toNat ∧ off.toNat < 0x150) ∨ (0x400 ≤ off.toNat ∧ off.toNat < 0x800)) :
    s.writeValue width off v = { s with mem := s.mem.writeBytes off.toNat (laneBytes width v) } := by
  have hw : hostWritable off.toNat = true := hostWritable_iff.mpr ha
  have hreg : ¬ off.toNat < 0x100 := by omega
  simp [State.writeValue, hreg, hw]

/-- Between KEY and IBUF, and from OBUF up, the host writes nothing. -/
theorem writeValue_unwritable (ha : (0x150 ≤ off.toNat ∧ off.toNat < 0x400) ∨ 0x800 ≤ off.toNat) :
    s.writeValue width off v = s := by
  have hw : ¬ hostWritable off.toNat = true := by rw [hostWritable_iff]; omega
  have hreg : ¬ off.toNat < 0x100 := by omega
  simp [State.writeValue, hreg, hw]

/-! ## Read-only and reserved offsets (20_memory.md R55, R56) -/

/-- R55: a write to ID, OUTLEN, CTR, CHAIN_L or CHAIN_R is ignored. -/
theorem writeValue_readOnly (ho : off ∈ [0x000#12, 0x014#12, 0x01C#12, 0x028#12, 0x02C#12]) :
    s.writeValue width off v = s := by
  simp only [List.mem_cons, List.not_mem_nil, or_false] at ho
  rcases ho with rfl | rfl | rfl | rfl | rfl <;> rfl

/-- Settles O13: neither a read-only register nor OBUF takes a write. -/
theorem readOnlyWritesIgnored : Obligations.ReadOnlyWritesIgnored := by
  intro s width off v hb hl ho
  have ignored : s.writeValue width off v = s := ho.elim writeValue_readOnly fun ha => writeValue_unwritable (.inr ha)
  rw [serve_write_idle hb hl, ignored]
  rfl

/-- The registers end at 0x038. -/
theorem readRegister_reserved {a : Nat} (ha : 0x038 ≤ a) : s.readRegister a = 0#32 := by
  unfold State.readRegister
  split
  case h_14 => rfl
  all_goals omega

theorem writeRegister_reserved {a : Nat} (ha : 0x038 ≤ a) : s.writeRegister a v = s := by
  unfold State.writeRegister
  split
  case h_10 => rfl
  all_goals omega

theorem readValue_reserved
    (ho : (0x038 ≤ off.toNat ∧ off.toNat ≤ 0x0FF) ∨ (0x150 ≤ off.toNat ∧ off.toNat ≤ 0x3FF)) :
    s.readValue width off = 0#32 := by
  rcases ho with ⟨hlo, hhi⟩ | ⟨hlo, hhi⟩
  · rw [readValue_register (by omega), readRegister_reserved hlo]
  · have hin : ¬ inBuffer off.toNat = true := by rw [inBuffer_iff]; omega
    have hreg : ¬ off.toNat < 0x100 := by omega
    simp [State.readValue, hreg, hin]

theorem writeValue_reserved
    (ho : (0x038 ≤ off.toNat ∧ off.toNat ≤ 0x0FF) ∨ (0x150 ≤ off.toNat ∧ off.toNat ≤ 0x3FF)) :
    s.writeValue width off v = s := by
  rcases ho with ⟨hlo, hhi⟩ | ⟨hlo, hhi⟩
  · rw [writeValue_register (by omega), writeRegister_reserved hlo]
  · exact writeValue_unwritable (.inl ⟨hlo, by omega⟩)

/-- Settles O14: a reserved offset has no register and no byte, and is as strict about widths as its region. -/
theorem reservedOffsetsReadZeroIgnoreWrites : Obligations.ReservedOffsetsReadZeroIgnoreWrites := by
  intro s width off v ho
  refine ⟨fun hl hb => ⟨?_, ?_⟩, fun hl => ⟨serve_read_illegal hl, serve_write_illegal hl⟩⟩
  · rw [serve_read_idle hb hl, readValue_reserved ho]
    rfl
  · rw [serve_write_idle hb hl, writeValue_reserved ho]
    rfl

/-! ## The byte lanes (20_memory.md R54) -/

theorem length_laneBytes (width : Width) (v : Word) : (laneBytes width v).length = widthBytes width := by
  simp [laneBytes]

theorem toNat_getD_laneBytes {k : Nat} (hk : k < widthBytes width) :
    ((laneBytes width v).getD k 0#8).toNat = v.toNat / 2 ^ (8 * k) % 256 := by
  rw [List.getD_eq_getElem _ _ (by rwa [length_laneBytes])]
  simp [laneBytes, Nat.shiftRight_eq_div_pow]

/-- Settles O15: the bytes written are the lanes of the word, from the access's offset up. -/
theorem bufferWriteStoresLanes : Obligations.BufferWriteStoresLanes := by
  intro s width off v hb hl ho
  refine ⟨_, serve_write_idle hb hl, ?_⟩
  rw [writeValue_buffer ho]
  refine ⟨rfl, fun k hk => ?inside, fun a ha => ?outside⟩
  all_goals rw [State.reply_byteAt, State.byteAt_writeBytes, length_laneBytes]
  case inside => rw [if_pos (by omega), Nat.add_sub_cancel_left, toNat_getD_laneBytes hk]
  case outside => rw [if_neg (by omega)]

/-- Lane `k` of a read at `a`: the byte there, and 0 above the width. -/
def State.laneAt (s : State) (width : Width) (a k : Nat) : Byte :=
  if k < widthBytes width then s.byteAt (a + k) else 0#8

/-- Whatever its width, a read puts its lowest offset into the lowest byte. -/
theorem readLanes_eq_be32 (s : State) (width : Width) (a : Nat) : s.readLanes width a
    = be32 (s.laneAt width a 3) (s.laneAt width a 2) (s.laneAt width a 1) (s.laneAt width a 0) := by
  cases width <;> rfl

/-- The bytes of a word, counted from the lowest. -/
theorem be32_div_mod (lane : Nat → Byte) {k : Nat} (hk : k < 4) :
    (be32 (lane 3) (lane 2) (lane 1) (lane 0)).toNat / 2 ^ (8 * k) % 256 = (lane k).toNat := by
  rw [toNat_be32]
  interval_cases k <;> omega

/-- Settles O16: the word answered is made of the lanes, those above the width being 0. -/
theorem bufferReadGathersLanes : Obligations.BufferReadGathersLanes := by
  intro s width off hb hl ho
  refine ⟨_, serve_read_idle hb hl, fun k hk => ?_⟩
  rw [readValue_buffer ho, readLanes_eq_be32, be32_div_mod (s.laneAt width off.toNat) hk, State.laneAt]
  split <;> rfl

/-! ## The window on the bus (20_memory.md R50, R51) -/

/-- Settles O21: BASE is a number of pages, and an access is inside the window or outside it. -/
theorem onlyTheWindowReachesTheCore : Obligations.OnlyTheWindowReachesTheCore :=
  ⟨Dvd.intro_left Config.basePage rfl, fun s _ access =>
    ⟨fun off haddr => haddr ▸ hostAccess_inside s access off, hostAccess_outside s access⟩⟩

end Sys2Proof.Machine

/-! The decoder against the encoder and against R85, and the core's turn (O1 to O4). -/

namespace Sys2Proof

variable {w : Word} {c : CommandWord} {i : Instr}

/-! ## Decoding and encoding (30_encoding.md R81 to R84) -/

/-- Every command is well-formed and decodes from its word. -/
theorem encoding_statement : ∀ i : Instr, Laws.Encoding.Statement i
  | .nop => Laws.Encoding.nop
  | .keyInit cap56 => Laws.Encoding.keyInit cap56
  | .encBlk => Laws.Encoding.encBlk
  | .decBlk => Laws.Encoding.decBlk
  | .ecbEnc => Laws.Encoding.ecbEnc
  | .ecbDec => Laws.Encoding.ecbDec
  | .cbcEnc chs piv => Laws.Encoding.cbcEnc chs piv
  | .cbcDec chs drop => Laws.Encoding.cbcDec chs drop
  | .ivGen => Laws.Encoding.ivGen
  | .b64Enc wrap => Laws.Encoding.b64Enc wrap
  | .b64Dec strict => Laws.Encoding.b64Dec strict
  | .lb64Enc => Laws.Encoding.lb64Enc
  | .lb64Dec => Laws.Encoding.lb64Dec
  | .xfer => Laws.Encoding.xfer

@[simp] theorem decode_encode (i : Instr) : decode (encode i) = .ok i := (encoding_statement i).2

/-- A word that decodes has RSVD = 0, so it is the OPC and FLAGS of its command. -/
theorem encode_of_decode (h : decode w = .ok i) : encode i = w := by
  obtain ⟨hrsvd, mask, hmask, hflags, hinstr⟩ := decode_ok h
  obtain ⟨hflagsOf, hopcOf⟩ := fields_of_instrOf hmask hflags hinstr
  rw [encode, hflagsOf, hopcOf]
  exact (word_of_fields w hrsvd).symm

/-- Settles O1: each command decodes from its word, and a word that decodes has no other field than its command's. -/
theorem decodeExactlyInvertsEncode : Obligations.DecodeExactlyInvertsEncode :=
  ⟨fun i _ => decode_encode i, fun _ _ => encode_of_decode⟩

/-- Settles O3: each word by evaluation of the decoder. -/
theorem specWordsDecode : Obligations.SpecWordsDecode := by
  unfold Obligations.SpecWordsDecode
  decide

/-! ## The decoder against R85 -/

theorem definedFlags_eq (c : CommandWord) :
    definedFlags c.opc = if c.opcOk then some c.definedFlags else none := by
  have table : ∀ opc : BitVec 8, definedFlags opc =
      if opc.toNat < 0x0E then some (CommandWord.definedFlags ⟨0#16, 0#8, opc⟩) else none := by decide
  simpa [CommandWord.opcOk, CommandWord.definedFlags] using table c.opc

/-- 30_encoding.md R84: CHS has no meaning exactly when both of its bits are set. -/
theorem isSome_chainStartOf : ∀ flags : BitVec 8,
    (chainStartOf flags).isSome = !(flags.extractLsb' 0 2 == 0b11#2) := by
  decide

/-- An opcode of the map gives a command but where it has a CHS field with the reserved value. -/
theorem isOk_instrOf (hopc : c.opcOk = true) : (instrOf c.opc c.flags).isOk = c.chsOk := by
  obtain ⟨rsvd, flags, opc⟩ := c
  obtain ⟨n, hn, rfl⟩ : ∃ n < 0x0E, opc = BitVec.ofNat 8 n :=
    ⟨opc.toNat, by simpa [CommandWord.opcOk] using hopc, by simp⟩
  have hcases : (n = 6 ∨ n = 7) ∨ n < 6 ∨ 7 < n := by omega
  rcases hcases with hcbc | hbelow | habove
  · have hchs : (instrOf (BitVec.ofNat 8 n) flags).isOk = (chainStartOf flags).isSome := by
      rcases hcbc with rfl | rfl <;> simp only [instrOf, BitVec.toNat_ofNat, Nat.reducePow, Nat.reduceMod] <;>
        cases chainStartOf flags <;> rfl
    rw [hchs, isSome_chainStartOf]
    rcases hcbc with rfl | rfl <;> rfl
  · interval_cases n <;> rfl
  · interval_cases n <;> rfl

/-- The decoder's checks, said with those of R85. -/
theorem decode_eq_checks (hc : CommandWord.ofWord w = c) : decode w =
    if c.rsvdOk then
      if c.opcOk then if c.flagsOk then instrOf c.opc c.flags else .error .undefinedFlags
      else .error .unknownOpcode
    else .error .reservedBits := by
  subst hc
  have hrsvd : (CommandWord.ofWord w).rsvdOk = (w.extractLsb' 16 16 == 0#16) := rfl
  have hflags : (CommandWord.ofWord w).flagsOk
      = (w.extractLsb' 8 8 &&& ~~~(CommandWord.ofWord w).definedFlags == 0#8) := rfl
  have hdefined : definedFlags (w.extractLsb' 0 8)
      = if (CommandWord.ofWord w).opcOk then some (CommandWord.ofWord w).definedFlags else none :=
    definedFlags_eq (.ofWord w)
  have hinstr : instrOf (CommandWord.ofWord w).opc (CommandWord.ofWord w).flags
      = instrOf (w.extractLsb' 0 8) (w.extractLsb' 8 8) := rfl
  cases hopc : (CommandWord.ofWord w).opcOk
  · simp [decode, hdefined, hopc, hrsvd]
  · simp [decode, hdefined, hopc, hrsvd, hflags, hinstr]

/-- The decoder accepts exactly the words that R85 does not name. -/
theorem isOk_decode (w : Word) : (decode w).isOk = (CommandWord.ofWord w).wf := by
  rw [decode_eq_checks rfl, CommandWord.wf]
  cases hrsvd : (CommandWord.ofWord w).rsvdOk
  · rfl
  cases hopc : (CommandWord.ofWord w).opcOk
  · rfl
  cases (CommandWord.ofWord w).flagsOk
  · rfl
  · simpa using isOk_instrOf hopc

theorem exists_eq_error_iff {α β : Type} {x : Except α β} : (∃ e, x = .error e) ↔ x.isOk = false := by
  cases x <;> simp [Except.isOk, Except.toBool]

theorem decode_error_iff : (∃ e, decode w = .error e) ↔ (CommandWord.ofWord w).wf = false := by
  rw [exists_eq_error_iff, isOk_decode]

end Sys2Proof

namespace Sys2Proof.Machine

variable {s : State} {w : Word} {i : Instr}

/-! ## The core's turn (30_encoding.md R80, R82) -/

/-- With a command in flight and its latency over the step is the core's. -/
theorem step_eq_perform (hl : s.latched = some w) (hw : s.wait = 0) : step s = perform w s := by
  simp only [step, turn, hl, hw]

theorem perform_of_decode (hd : decode w = .ok i) : perform w s = exec i s := by
  simp only [perform, hd]

theorem perform_of_illegal {e : Illegal} (hd : decode w = .error e) : perform w s = raise .illegal s := by
  simp only [perform, hd]

/-- Settles O2: the decoder's checks are those of R85, and a word that it rejects raises ILLEGAL. -/
theorem illegalWordsRaiseIllegal : Obligations.IllegalWordsRaiseIllegal := by
  refine fun w s => ⟨decode_error_iff, fun hwf hl hw => ?_⟩
  obtain ⟨e, hd⟩ := decode_error_iff.mpr hwf
  rw [step_eq_perform hl hw, perform_of_illegal hd]
  rfl

/-- The fetch word of 32 bits is the word latched. -/
theorem withFetchWord_eq_latchCommand (s : State) (w : Word) : s.withFetchWord 32 w.toNat = s.latchCommand w := by
  rw [State.withFetchWord, Nat.mod_eq_of_lt w.isLt, BitVec.ofNat_toNat, BitVec.setWidth_eq]

/-- Settles O4: the step is `perform`, which is `exec` of the command that the word decodes to. -/
theorem stepPerformsLatchedCommand : Obligations.StepPerformsLatchedCommand := by
  have performs (s : State) (w : Word) (i : Instr) (hl : s.latched = some w) (hw : s.wait = 0)
      (hd : decode w = .ok i) : step s = exec i s :=
    (step_eq_perform hl hw).trans (perform_of_decode hd)
  refine ⟨performs, fun s i => ?_⟩
  rw [withFetchWord_eq_latchCommand]
  exact performs (s.latchCommand (encode i)) (encode i) i rfl rfl (decode_encode i)

end Sys2Proof.Machine

/-! What a command writes (30_encoding.md R86, the column "writes"; O54). -/

namespace Sys2Proof.Machine

variable {s t : State} {i : Instr} {code : ResultCode}

/-! ## The registers that a command leaves unchanged -/

/-- 10_state.md R23, R24, R27: no command writes BUSYERR, KEYLEN or TIME. -/
theorem Effect.busyErr_unchanged (h : Effect s i code t) : t.busyErr = s.busyErr := by
  cases h <;> rfl

/-- What is outside the FBC is nothing that a command writes (logs 1, 6, 7). -/
theorem Effect.outside_unchanged (h : Effect s i code t) : t.wait = s.wait ∧ t.pending = s.pending ∧
    t.replies = s.replies ∧ t.draws = s.draws ∧ t.resets = s.resets := by
  cases h <;> exact ⟨rfl, rfl, rfl, rfl, rfl⟩

theorem Effect.sched_keyValid_unchanged (h : Effect s i code t) (hi : ∀ c, i ≠ .keyInit c) :
    t.sched = s.sched ∧ t.keyValid = s.keyValid := by
  by_contra hne
  obtain ⟨c, rfl, -⟩ := h.keyInit_of_changed (not_and_or.mp hne)
  exact hi c rfl

theorem Effect.chain_unchanged (h : Effect s i code t) (henc : ∀ c p, i ≠ .cbcEnc c p)
    (hdec : ∀ c d, i ≠ .cbcDec c d) : t.chainL = s.chainL ∧ t.chainR = s.chainR := by
  by_contra hne
  rcases h.cbc_of_changed (not_and_or.mp hne) with ⟨c, p, rfl⟩ | ⟨c, d, rfl⟩
  · exact henc c p rfl
  · exact hdec c d rfl

/-- 10_state.md R31: BLK changes by ENC_BLK and DEC_BLK only. -/
theorem Effect.blk_unchanged (h : Effect s i code t) (henc : i ≠ .encBlk) (hdec : i ≠ .decBlk) :
    t.blkL = s.blkL ∧ t.blkR = s.blkR := by
  cases h with
  | encBlk => exact absurd rfl henc
  | decBlk => exact absurd rfl hdec
  | _ => exact ⟨rfl, rfl⟩

/-- 10_state.md R28, R29, R36: IV, CTR, σ and SEEDED change by IV_GEN only. -/
theorem Effect.ivGen_registers_unchanged (h : Effect s i code t) (hi : i ≠ .ivGen) :
    t.ivL = s.ivL ∧ t.ivR = s.ivR ∧ t.ctr = s.ctr ∧ t.sigma = s.sigma ∧ t.seeded = s.seeded := by
  cases h with
  | ivGen => exact absurd rfl hi
  | _ => exact ⟨rfl, rfl, rfl, rfl, rfl⟩

/-- 10_state.md R25: of the commands XFER only writes INLEN. -/
theorem Effect.inLen_unchanged (h : Effect s i code t) (hi : i ≠ .xfer) : t.inLen = s.inLen := by
  cases h with
  | xfer => exact absurd rfl hi
  | _ => rfl

/-- 10_state.md R26: OUTLEN changes by the buffer commands only. -/
theorem Effect.outLen_unchanged (h : Effect s i code t) (hi : writesOutput i = false) : t.outLen = s.outLen := by
  cases h with
  | noOutput hi' => exact absurd (hi.symm.trans hi') (by decide)
  | output hi' => exact absurd (hi.symm.trans hi') (by decide)
  | _ => rfl

/-! ## The bytes that a command leaves unchanged (10_state.md R32) -/

theorem Effect.byteAt_unchanged (h : Effect s i code t) (hx : i ≠ .xfer) (hi : writesOutput i = false) (a : Nat) :
    t.byteAt a = s.byteAt a := by
  cases h with
  | output hi' => exact absurd (hi.symm.trans hi') (by decide)
  | xfer => exact absurd rfl hx
  | _ => rfl

/-- XFER stores below the new INLEN of IBUF only. -/
theorem Effect.byteAt_outside_ibuf (h : Effect s .xfer code t) {a : Nat}
    (ha : a < ibufOff ∨ ibufOff + t.inLen.toNat ≤ a) : t.byteAt a = s.byteAt a := by
  cases h with
  | failed => rfl
  | noOutput hi => exact absurd hi (by decide)
  | output hi => exact absurd hi (by decide)
  | xfer =>
    have hlen : (s.obuf s.outLen.toNat).length = s.outLen.toNat := State.length_bytes s obufOff _
    exact (State.byteAt_writeBytes (s := s)).trans (if_neg (by rw [hlen]; dsimp only at ha; omega))

/-- A buffer command stores below the new OUTLEN of OBUF only. -/
theorem Effect.byteAt_outside_obuf (h : Effect s i code t) (hi : writesOutput i = true) {a : Nat}
    (ha : a < obufOff ∨ obufOff + t.outLen.toNat ≤ a) : t.byteAt a = s.byteAt a := by
  cases h with
  | output _ out hlen =>
    rw [State.putChain_outLen, putOutput_outLen_toNat s hlen] at ha
    rw [State.putChain_byteAt, byteAt_putOutput, if_neg (by omega)]
  | xfer => exact absurd hi (by decide)
  | _ => rfl

/-- Settles O54: the end of a command writes RESULT and BUSY, and its effect leaves the rest as R86 lists it. -/
theorem commandsWriteOnlyTheirOperands : Obligations.CommandsWriteOnlyTheirOperands := by
  intro i s t h
  obtain ⟨u, code, rfl, he⟩ := effect_of_exec h
  obtain ⟨hkeyLen, htime⟩ := he.keyLen_time_unchanged
  exact ⟨hkeyLen, htime, he.busyErr_unchanged, he.sched_keyValid_unchanged, he.blk_unchanged, he.chain_unchanged,
    he.ivGen_registers_unchanged, he.inLen_unchanged, he.outLen_unchanged, he.outside_unchanged, fun a =>
      ⟨fun hx hi => he.byteAt_unchanged hx hi a, fun hx => (hx ▸ he).byteAt_outside_ibuf,
        fun hi => he.byteAt_outside_obuf hi⟩⟩

end Sys2Proof.Machine

/-! What a command reads (30_encoding.md R86, the column "reads"; O55). -/

namespace Sys2Proof.Machine

open Sys2Proof.Reading

variable {s t : State} {i : Instr} {r : State → State → Prop}
variable {o o' o₁ o₂ o₁' o₂' : Host.Outcome State Fault Refusal}

/-! ## Outcomes that agree -/

/-- Both outcomes are a command's end with the same code, and where it is OK the states are related by `r`. -/
def EndAlike (r : State → State → Prop) (o o' : Host.Outcome State Fault Refusal) : Prop :=
  ∃ u u', o = .next u ∧ o' = .next u' ∧ u.result = u'.result ∧ (u.result = .ok → r u u')

/-- A successful end of states that `r` relates after it. -/
theorem EndAlike.of_complete (h : r (s.finish .ok) (t.finish .ok)) : EndAlike r (complete s) (complete t) :=
  ⟨_, _, rfl, rfl, rfl, fun _ => h⟩

theorem EndAlike.of_raise {code : ResultCode} (hc : code ≠ .ok) : EndAlike r (raise code s) (raise code t) :=
  ⟨_, _, rfl, rfl, rfl, fun h => absurd h hc⟩

theorem EndAlike.of_raiseNoOutput {code : ResultCode} (hc : code ≠ .ok) :
    EndAlike r (raiseNoOutput code s) (raiseNoOutput code t) :=
  ⟨_, _, rfl, rfl, rfl, fun h => absurd h hc⟩

/-- A check that both states pass alike, each of its branches ending alike. -/
theorem EndAlike.of_ite {c c' : Prop} {_ : Decidable c} {_ : Decidable c'} (hc : c' ↔ c)
    (h₁ : EndAlike r o₁ o₁') (h₂ : EndAlike r o₂ o₂') : EndAlike r (if c then o₁ else o₂) (if c' then o₁' else o₂') := by
  by_cases h : c
  · rwa [if_pos h, if_pos (hc.mpr h)]
  · rwa [if_neg h, if_neg (h ∘ hc.mp)]

theorem EndAlike.of_next {u u' : State} (h : EndAlike r (.next u) (.next u')) :
    u.result = u'.result ∧ (u.result = .ok → r u u') := by
  obtain ⟨_, _, ⟨⟩, ⟨⟩, h⟩ := h
  exact h

/-! ## What the commands read -/

/-- The two states hold the same key and schedule. -/
def SameKeyed (s t : State) : Prop := s.keyValid = t.keyValid ∧ s.sched = t.sched

/-- The two states have the same `n` bytes from offset `a` up. -/
def SameBytes (a n : Nat) (s t : State) : Prop := ∀ k < n, s.byteAt (a + k) = t.byteAt (a + k)

/-- The two states have the same INLEN and IBUF[0..INLEN). -/
def SameInput (s t : State) : Prop := s.inLen = t.inLen ∧ SameBytes ibufOff s.inLen.toNat s t

/-- The two states have the same OUTLEN and OBUF[0..OUTLEN). -/
def SameOutput (s t : State) : Prop := s.outLen = t.outLen ∧ SameBytes obufOff s.outLen.toNat s t

theorem SameBytes.bytes_eq {a n : Nat} (h : SameBytes a n s t) : s.bytes a n = t.bytes a n := State.bytes_congr h

theorem SameInput.input_eq (h : SameInput s t) : s.input = t.input := by
  obtain ⟨hlen, hbytes⟩ := h
  rw [State.input, State.input, State.ibuf, State.ibuf, hbytes.bytes_eq, hlen]

theorem SameInput.inLenBad_eq (h : SameInput s t) : s.inLenBad = t.inLenBad := by
  rw [State.inLenBad, State.inLenBad, h.1]

/-- KEY_INIT reads no more of KEY than KEYLEN says (41_block_cipher.md R104). -/
theorem effectiveKey_congr (hlen : s.keyLen = t.keyLen) (hkey : SameBytes keyOff s.keyLen.toNat s t) (cap56 : Bool) :
    s.effectiveKey cap56 = t.effectiveKey cap56 := by
  rw [State.effectiveKey, State.effectiveKey, ← hlen]
  exact SameBytes.bytes_eq fun k hk => hkey k (lt_of_lt_of_le hk (min_le_left _ _))

/-- The chain's start reads no more than the register that CHS names, if it names one (43_modes_and_iv.md R148). -/
theorem chainStart_congr {chs : ChainStart} (hiv : chs = .iv → s.ivL = t.ivL ∧ s.ivR = t.ivR)
    (hchain : chs = .cont → s.chainL = t.chainL ∧ s.chainR = t.chainR) : s.chainStart chs = t.chainStart chs := by
  cases chs with
  | zero => rfl
  | iv => simp [State.chainStart, State.iv, hiv rfl]
  | cont => simp [State.chainStart, State.chain, hchain rfl]

theorem cbcSource_congr {piv : Bool} (hin : SameInput s t) (hiv : piv = true → s.ivL = t.ivL ∧ s.ivR = t.ivR) :
    s.cbcSource piv = t.cbcSource piv := by
  cases piv with
  | false => exact hin.input_eq
  | true => simp [State.cbcSource, State.iv, hiv rfl, hin.input_eq]

/-! ## What the commands write -/

/-- Bytes that were written are the same whatever was there before. -/
theorem sameBytes_writeBytes (a : Nat) (bs : List Byte) :
    SameBytes a bs.length { s with mem := s.mem.writeBytes a bs } { t with mem := t.mem.writeBytes a bs } := by
  intro k hk
  rw [State.byteAt_writeBytes, State.byteAt_writeBytes, if_pos (by omega), if_pos (by omega)]

/-- The same output gives the same OUTLEN and the same bytes below it. -/
theorem sameOutput_putOutput (out : List Byte) : SameOutput (s.putOutput out) (t.putOutput out) := by
  refine ⟨rfl, fun k hk => sameBytes_writeBytes obufOff out k (lt_of_lt_of_le hk ?_)⟩
  rw [State.putOutput_outLen, BitVec.toNat_ofNat]
  exact Nat.mod_le _ _

/-! ## The commands -/

theorem EndAlike.of_putOutput {out out' : List Byte} (h : out = out') :
    EndAlike SameOutput (complete (s.putOutput out)) (complete (t.putOutput out')) :=
  h ▸ .of_complete (sameOutput_putOutput (s := s) (t := t) out)

theorem EndAlike.of_withKeyAndInput (hkey : SameKeyed s t) (hin : SameInput s t) (h : EndAlike r o o') :
    EndAlike r (withKeyAndInput s o) (withKeyAndInput t o') :=
  .of_ite (by rw [hkey.1]) (.of_raiseNoOutput (by decide)) <|
    .of_ite (by rw [hin.inLenBad_eq]) (.of_raiseNoOutput (by decide)) h

theorem EndAlike.of_encodeCommand (f : List Byte → List Byte) (hin : SameInput s t) :
    EndAlike SameOutput (encodeCommand f s) (encodeCommand f t) :=
  .of_ite (by rw [hin.inLenBad_eq]) (.of_raiseNoOutput (by decide)) <|
    .of_ite (by rw [hin.input_eq]) (.of_raiseNoOutput (by decide)) (.of_putOutput (by rw [hin.input_eq]))

theorem EndAlike.of_blockCommand (f : Schedule → Block → Block) (hkey : SameKeyed s t) (hblk : s.blk = t.blk) :
    EndAlike (fun u u' => u.blkL = u'.blkL ∧ u.blkR = u'.blkR) (blockCommand f s) (blockCommand f t) := by
  refine .of_ite (by rw [hkey.1]) (.of_complete ?_) (.of_raise (by decide))
  rw [hkey.2, hblk]
  exact ⟨rfl, rfl⟩

/-- What CBC_ENC and CBC_DEC end with: the output, and the last chain value in CHAIN. -/
theorem EndAlike.of_putOutput_putChain {out out' : List Byte} {c c' : Block} (hout : out = out') (hc : c = c') :
    EndAlike (fun u u' => SameOutput u u' ∧ u.chainL = u'.chainL ∧ u.chainR = u'.chainR)
      (complete ((s.putOutput out).putChain c)) (complete ((t.putOutput out').putChain c')) := by
  subst hout hc
  exact .of_complete ⟨sameOutput_putOutput (s := s) (t := t) out, rfl, rfl⟩

/-- Two states that agree on what a command reads end alike. -/
theorem exec_endAlike (h : agreeOnReads i s t) : EndAlike (agreeOnWrites i) (exec i s) (exec i t) := by
  cases i with
  | nop => exact .of_complete trivial
  | keyInit cap56 =>
    obtain ⟨hlen, hkey⟩ := h
    refine .of_ite (by rw [hlen]) (.of_raise (by decide)) (.of_complete ?_)
    rw [effectiveKey_congr hlen hkey]
    exact ⟨rfl, rfl⟩
  | encBlk =>
    obtain ⟨hkey, hl, hr⟩ := h
    exact .of_blockCommand encipher hkey (by rw [State.blk, State.blk, hl, hr])
  | decBlk =>
    obtain ⟨hkey, hl, hr⟩ := h
    exact .of_blockCommand decipher hkey (by rw [State.blk, State.blk, hl, hr])
  | ecbEnc =>
    obtain ⟨hkey, hin⟩ := h
    exact .of_withKeyAndInput hkey hin (.of_putOutput (by rw [hkey.2, SameInput.input_eq hin]))
  | ecbDec =>
    obtain ⟨hkey, hin⟩ := h
    exact .of_withKeyAndInput hkey hin (.of_putOutput (by rw [hkey.2, SameInput.input_eq hin]))
  | cbcEnc chs piv =>
    obtain ⟨hkey, hin, hiv, hchain⟩ := h
    have hstart := chainStart_congr (fun hc => hiv (.inl hc)) hchain
    have hsource := cbcSource_congr hin fun hp => hiv (.inr hp)
    refine .of_withKeyAndInput hkey hin (.of_putOutput_putChain ?_ ?_) <;> rw [hkey.2, hstart, hsource]
  | cbcDec chs drop =>
    obtain ⟨hkey, hin, hiv, hchain⟩ := h
    have hstart := chainStart_congr hiv hchain
    refine .of_withKeyAndInput hkey hin (.of_putOutput_putChain ?_ ?_) <;> rw [hkey.2, hstart, SameInput.input_eq hin]
  | ivGen =>
    obtain ⟨htime, hctr, hsigma, hseeded⟩ := h
    refine .of_complete ?_
    simp [agreeOnWrites, State.seededSigma, htime, hctr, hsigma, hseeded]
  | b64Enc wrap => exact .of_encodeCommand (fun src => if wrap then wrap76 (b64 src) else b64 src) h
  | b64Dec strict =>
    refine .of_ite (by rw [SameInput.inLenBad_eq h]) (.of_raiseNoOutput (by decide)) ?_
    rw [SameInput.input_eq h]
    cases b64dec t.input strict with
    | none => exact .of_raiseNoOutput (by decide)
    | some out => exact .of_putOutput rfl
  | lb64Enc => exact .of_encodeCommand legEnc h
  | lb64Dec =>
    exact .of_ite (by rw [SameInput.inLenBad_eq h]) (.of_raiseNoOutput (by decide))
      (.of_putOutput (by rw [SameInput.input_eq h]))
  | xfer =>
    obtain ⟨hlen, hbytes⟩ := h
    have hout : s.obuf s.outLen.toNat = t.obuf t.outLen.toNat := by
      rw [State.obuf, State.obuf, SameBytes.bytes_eq hbytes, hlen]
    have hcount : s.outLen.toNat = (t.obuf t.outLen.toNat).length := by
      rw [hlen, State.obuf, State.length_bytes]
    refine .of_ite (by rw [hlen]) (.of_raise (by decide)) (.of_complete ⟨hlen, fun k hk => ?_⟩)
    rw [hout]
    exact sameBytes_writeBytes ibufOff (t.obuf t.outLen.toNat) k (hcount ▸ hk)

/-- Settles O55: both commands end alike. -/
theorem commandsReadOnlyTheirOperands : Obligations.CommandsReadOnlyTheirOperands :=
  fun _ _ _ _ _ h hs ht => (hs ▸ ht ▸ exec_endAlike h).of_next

end Sys2Proof.Machine

/-! The rounds of the block cipher: F by numbers, the loops of 41_block_cipher.md R101 and R102, and the inverse law of
R103 (O24, O25, O26). -/

namespace Sys2Proof.Machine

open Sys2Proof.Reading

variable {s : Vector (Vector Word 256) 4} {b : Block}

/-! ## The round function (41_block_cipher.md R100) -/

theorem sboxAt_eq_entry (t : Vector Word 256) (c : Byte) : sboxAt t c = entry t c.toNat := by
  have hc : c.toNat < t.toList.length := by simpa using c.isLt
  rw [entry, List.getD_eq_getElem _ _ hc]
  rfl

/-- The byte of a word from bit `k` up, as a number. -/
theorem toNat_byteField (x : Word) (k : Nat) : (x.extractLsb' k 8).toNat = x.toNat / 2 ^ k % 256 := by
  simp [BitVec.extractLsb'_toNat, Nat.shiftRight_eq_div_pow]

theorem feistelF_eq_fOf (s : Vector (Vector Word 256) 4) (x : Word) : feistelF s x = fOf s x := by
  have htop : x.toNat / 2 ^ 24 % 256 = x.toNat / 2 ^ 24 := by have := x.isLt; omega
  simp only [feistelF, fOf, sboxAt_eq_entry, toNat_byteField, htop, pow_zero, Nat.div_one]

/-- Settles O24: each byte of the word indexes its table as the number that R100 gives it. -/
theorem roundFunction : Obligations.RoundFunction := feistelF_eq_fOf

/-! ## The loops (41_block_cipher.md R101, R102) -/

/-- Subkey P[i], in the form in which the loops read it. -/
def subkey (sc : Schedule) (i : Nat) : Word := sc.p.toList.getD i 0#32

theorem getElem_eq_subkey (sc : Schedule) (i : Nat) (hi : i < 18) : sc.p[i] = subkey sc i := by
  rw [subkey, List.getD_eq_getElem _ _ (by simpa using hi), Vector.getElem_toList]

theorem loopTurn_eq_feistelRound (sc : Schedule) (b : Block) (i : Nat) :
    loopTurn sc b i = feistelRound sc.s b (subkey sc i) := by
  rw [feistelRound, feistelF_eq_fOf]
  rfl

/-- Turns of the loop with subkeys `f i` are rounds over the list of those subkeys. -/
theorem foldl_loopTurn (sc : Schedule) (f : Nat → Nat) (is : List Nat) (b : Block) :
    is.foldl (fun b i => loopTurn sc b (f i)) b = (is.map fun i => subkey sc (f i)).foldl (feistelRound sc.s) b := by
  simp only [List.foldl_map, loopTurn_eq_feistelRound]

/-- The subkeys one by one. -/
theorem toList_subkeys (sc : Schedule) : sc.p.toList = (List.range 18).map (subkey sc) := by
  refine List.ext_getElem (by simp) fun i hi _ => ?_
  have hi : i < 18 := by simpa using hi
  simp [← getElem_eq_subkey sc i hi]

/-- encipher's rounds take P[0] to P[15] in order. -/
theorem take_subkeys (sc : Schedule) : sc.p.toList.take 16 = (List.range 16).map fun i => subkey sc i := by
  rw [toList_subkeys]
  rfl

/-- decipher's rounds take P[17] down to P[2]. -/
theorem reverse_drop_subkeys (sc : Schedule) :
    (sc.p.toList.drop 2).reverse = (List.range 16).map fun i => subkey sc (17 - i) := by
  rw [toList_subkeys]
  rfl

theorem encipher_eq_encipherLoop (sc : Schedule) (b : Block) : encipher sc b = encipherLoop sc b := by
  rw [encipher, feistel, take_subkeys, ← foldl_loopTurn sc fun i => i]
  rfl

theorem decipher_eq_decipherLoop (sc : Schedule) (b : Block) : decipher sc b = decipherLoop sc b := by
  rw [decipher, feistel, reverse_drop_subkeys, ← foldl_loopTurn sc fun i => 17 - i]
  rfl

/-! ## The form that keeps the halves in place (41_block_cipher.md R101) -/

/-- The `i`-th pair of rounds of the form that keeps the halves in place: R ^= F(L) ^ P[2i+1]; L ^= F(R) ^ P[2i+2]. -/
def inPlaceTurn (sc : Schedule) (b : Block) (i : Nat) : Block :=
  let r := b.r ^^^ (fOf sc.s b.l ^^^ subkey sc (2 * i + 1))
  { l := b.l ^^^ (fOf sc.s r ^^^ subkey sc (2 * i + 2)), r := r }

theorem encipherInPlace_eq (sc : Schedule) (b : Block) : encipherInPlace sc b =
    (let x := (List.range 8).foldl (inPlaceTurn sc) { l := b.l ^^^ sc.p[0], r := b.r }
     { l := x.r ^^^ sc.p[17], r := x.l }) :=
  rfl

/-- A block of the loop as the in-place form holds it: the subkey of the next turn is already in the left half. -/
def premixed (sc : Schedule) (b : Block) (i : Nat) : Block := { l := b.l ^^^ subkey sc i, r := b.r }

/-- Two turns of the loop are one pair of rounds in place. -/
theorem inPlaceTurn_premixed (sc : Schedule) (b : Block) (i : Nat) : inPlaceTurn sc (premixed sc b (2 * i)) i =
    premixed sc (loopTurn sc (loopTurn sc b (2 * i)) (2 * i + 1)) (2 * i + 2) := by
  simp only [inPlaceTurn, premixed, loopTurn, subkey, BitVec.xor_assoc]

theorem foldl_inPlaceTurn (sc : Schedule) (b : Block) (n : Nat) :
    (List.range n).foldl (inPlaceTurn sc) (premixed sc b 0) =
      premixed sc ((List.range (2 * n)).foldl (loopTurn sc) b) (2 * n) := by
  induction n with
  | zero => rfl
  | succ n ih =>
    rw [List.range_succ, List.foldl_append, ih, Nat.mul_succ, List.range_succ, List.range_succ, List.append_assoc,
      List.foldl_append]
    exact inPlaceTurn_premixed sc _ n

theorem encipherLoop_eq_encipherInPlace (sc : Schedule) (b : Block) : encipherLoop sc b = encipherInPlace sc b := by
  have hstart : ({ l := b.l ^^^ sc.p[0], r := b.r } : Block) = premixed sc b 0 := by
    rw [premixed, getElem_eq_subkey]
  rw [encipherInPlace_eq, hstart, foldl_inPlaceTurn, encipherLoop, getElem_eq_subkey sc 16]
  rfl

/-- Settles O25: the rounds are the turns of the loops, and pairs of turns the rounds in place. -/
theorem cipherLoops : Obligations.CipherLoops := fun sc b =>
  ⟨encipher_eq_encipherLoop sc b, (encipher_eq_encipherLoop sc b).trans (encipherLoop_eq_encipherInPlace sc b),
    decipher_eq_decipherLoop sc b⟩

/-! ## The inverse law (41_block_cipher.md R103) -/

/-- The network over the subkeys `rs`, kR, kL, then a round for each of them but the first two, from the last down: what
is left is the network without rounds over the first two. -/
theorem foldl_feistelRound_feistel {ks rs : List Word} {k0 k1 kR kL : Word}
    (h : k0 :: k1 :: ks = rs ++ [kR, kL]) :
    ks.reverse.foldl (feistelRound s) (feistel s rs kR kL b) = feistel s [] k0 k1 b := by
  induction ks using List.reverseRecOn generalizing rs kR kL with
  | nil =>
    obtain ⟨hrs, hlast⟩ : [] = rs ∧ [k0, k1] = [kR, kL] := List.append_inj' (s₁ := []) h rfl
    cases hrs; cases hlast
    rfl
  | append_singleton ks k ih =>
    obtain ⟨hinit, hk⟩ : k0 :: k1 :: ks = rs ++ [kR] ∧ [k] = [kL] :=
      List.append_inj' (by simpa using h) rfl
    cases hk
    obtain rfl | ⟨rs, k', rfl⟩ := rs.eq_nil_or_concat'
    · simp at hinit
    · rw [List.reverse_append, List.reverse_singleton, List.singleton_append, List.foldl_cons, feistelRound_feistel]
      exact ih (by simpa using hinit)

/-- The network with the subkeys reversed undoes the network. -/
theorem feistel_reverse_feistel {ks rs : List Word} {k0 k1 kR kL : Word} (h : k0 :: k1 :: ks = rs ++ [kR, kL]) :
    feistel s ks.reverse k1 k0 (feistel s rs kR kL b) = b := by
  rw [feistel, foldl_feistelRound_feistel h]
  simp [feistel]

/-- The 18 subkeys as encipher and as decipher take them apart. -/
theorem subkeys_split (sc : Schedule) :
    sc.p[0] :: sc.p[1] :: sc.p.toList.drop 2 = sc.p.toList.take 16 ++ [sc.p[16], sc.p[17]] := by
  simp only [getElem_eq_subkey, toList_subkeys]
  rfl

/-- Settles O26: decipher is the network of encipher with the subkeys reversed, and the other way round. -/
theorem decipherInvertsEncipher : Obligations.DecipherInvertsEncipher := by
  intro sc b
  have hsplit : sc.p[17] :: sc.p[16] :: (sc.p.toList.take 16).reverse =
      (sc.p.toList.drop 2).reverse ++ [sc.p[1], sc.p[0]] := by
    simpa using congrArg List.reverse (subkeys_split sc).symm
  refine ⟨feistel_reverse_feistel (subkeys_split sc), ?_⟩
  rw [encipher, ← List.reverse_reverse (sc.p.toList.take 16)]
  exact feistel_reverse_feistel hsplit

end Sys2Proof.Machine

/-! The key schedule: subkey mixing, the fill as one feedback loop, and what of the key it depends on
(41_block_cipher.md R105 to R107; O27, O28, O29). -/

namespace Sys2Proof.Machine

open Sys2Proof.Reading

variable {k : List Byte}

/-! ## Subkey mixing (41_block_cipher.md R105) -/

/-- Four bytes shifted in one after the other are the big-endian word of them. -/
theorem shiftIn_eq_be32 (a b c d : Byte) :
    (((0#32 <<< 8 ||| a.setWidth 32) <<< 8 ||| b.setWidth 32) <<< 8 ||| c.setWidth 32) <<< 8 ||| d.setWidth 32
      = be32 a b c d := by
  simp only [BitVec.zero_shiftLeft, BitVec.zero_or, BitVec.shiftLeft_or_distrib, ← BitVec.shiftLeft_add]
  rfl

theorem chunkLoop_eq_keyChunk (k : List Byte) (i : Nat) : chunkLoop k i = keyChunk k i :=
  shiftIn_eq_be32 (cycled k (4 * i)) (cycled k (4 * i + 1)) (cycled k (4 * i + 2)) (cycled k (4 * i + 3))

/-- Settles O27: the four turns of the inner loop shift in the bytes of the key chunk. -/
theorem subkeyMixing : Obligations.SubkeyMixing := by
  refine fun init k => ⟨rfl, fun i hi => ?_⟩
  rw [chunkLoop_eq_keyChunk]
  exact Vector.getElem_mapIdx hi

/-! ## The fill (41_block_cipher.md R106) -/

/-- A store in bounds needs no check. -/
theorem setIfInBounds_of_lt {n i : Nat} (t : Vector Word n) (w : Word) (hi : i < n) :
    t.setIfInBounds i w = t.set i w :=
  Vector.ext fun j hj => by rw [Vector.getElem_setIfInBounds, Vector.getElem_set]

theorem setWord_subkey (sc : Schedule) {i : Nat} (hi : i < 18) (w : Word) :
    setWord sc i w = { sc with p := sc.p.set i w } := by
  rw [setWord, if_pos hi, setIfInBounds_of_lt _ _ hi]

/-- Word 18 + 256t + j of the fill is entry `j` of S[t]. -/
theorem setWord_table (sc : Schedule) {t j : Nat} (ht : t < 4) (hj : j < 256) (w : Word) :
    setWord sc (18 + 256 * t + j) w = { sc with s := sc.s.set t (sc.s[t].set j w) } := by
  have htable : (18 + 256 * t + j - 18) / 256 = t := by omega
  have hentry : (18 + 256 * t + j - 18) % 256 = j := by omega
  rw [setWord, if_neg (by omega), htable, hentry]
  congr 1
  refine Vector.ext fun i hi => ?_
  rw [Vector.getElem_mapIdx, Vector.getElem_set]
  by_cases hit : i = t
  · subst hit
    rw [if_pos rfl, if_pos rfl, setIfInBounds_of_lt _ _ hj]
  · rw [if_neg hit, if_neg (Ne.symm hit)]

theorem fillTurn_subkeys (x : Schedule × Block) (j : Fin 9) : fillTurn x j = fillSubkeys x j := by
  rw [fillTurn, setWord_subkey _ (by omega), setWord_subkey _ (by omega)]
  rfl

theorem fillTurn_table (x : Schedule × Block) (t : Fin 4) (j : Fin 128) :
    fillTurn x (9 + 128 * t + j) = fillTable t x j := by
  have hleft : 2 * (9 + 128 * t.val + j.val) = 18 + 256 * t + 2 * j := by omega
  rw [fillTurn, hleft, setWord_table _ t.isLt (by omega), Nat.add_assoc, setWord_table _ t.isLt (by omega)]
  simp [fillTable]

section

variable {α : Type} {n : Nat} {g : α → Nat → α}

/-- A fold over the numbers below `n` is one over the `n` numbers from `a` up. -/
theorem foldl_finRange_eq_range' {f : α → Fin n → α} (a : Nat) (h : ∀ x i, g x (a + i.val) = f x i) (x : α) :
    (List.finRange n).foldl f x = (List.range' a n).foldl g x := by
  rw [List.range'_eq_map_range, ← List.map_coe_finRange_eq_range, List.foldl_map, List.foldl_map]
  simp only [h]

/-- Folds over blocks of `m` numbers that follow each other are one fold over all of their numbers. -/
theorem foldl_range'_blocks (a m n : Nat) (x : α) :
    (List.range' 0 n).foldl (fun x t => (List.range' (a + m * t) m).foldl g x) x
      = (List.range' a (m * n)).foldl g x := by
  induction n with
  | zero => rfl
  | succ n ih =>
    rw [List.range'_1_concat, List.foldl_append, ih, Nat.mul_succ, ← List.range'_append_1, List.foldl_append]
    simp

end

/-- Settles O28: the turns 0 to 8 fill the subkeys, and the 128 from 9 + 128t on fill S[t]. -/
theorem scheduleFillIsFeedback : Obligations.ScheduleFillIsFeedback := by
  intro mixed
  have hsubkeys (x : Schedule × Block) :
      (List.finRange 9).foldl fillSubkeys x = (List.range' 0 9).foldl fillTurn x :=
    foldl_finRange_eq_range' 0 (fun x j => by rw [Nat.zero_add, fillTurn_subkeys]) x
  have htable (x : Schedule × Block) (t : Fin 4) :
      (List.finRange 128).foldl (fillTable t) x = (List.range' (9 + 128 * t.val) 128).foldl fillTurn x :=
    foldl_finRange_eq_range' _ (fun x j => fillTurn_table x t j) x
  have htables (x : Schedule × Block) :
      (List.finRange 4).foldl (fun x t => (List.finRange 128).foldl (fillTable t) x) x
        = (List.range' 9 512).foldl fillTurn x :=
    calc
      _ = (List.range' 0 4).foldl (fun x t => (List.range' (9 + 128 * t) 128).foldl fillTurn x) x :=
        foldl_finRange_eq_range' 0 (fun x t => by rw [Nat.zero_add, htable]) x
      _ = _ := foldl_range'_blocks 9 128 4 x
  rw [fillSchedule, hsubkeys, htables, ← List.foldl_append, List.range_eq_range',
    ← List.range'_append_1 (m := 9) (n := 512)]

/-! ## What the schedule depends on (41_block_cipher.md R107) -/

theorem schedule_congr {init : Schedule} {k' : List Byte} (h : ∀ j < 72, cycled k j = cycled k' j) :
    schedule init k = schedule init k' := by
  rw [schedule, mixSubkeys_congr h, schedule]

/-- No byte of the cycled key beyond the 72nd is used, so a longer key is not cycled at all. -/
theorem cycled_take_72 (hk : 72 ≤ k.length) {j : Nat} (hj : j < 72) : cycled k j = cycled (k.take 72) j := by
  have hlen : (k.take 72).length = 72 := by simpa using hk
  rw [cycled, cycled, hlen, Nat.mod_eq_of_lt hj, Nat.mod_eq_of_lt (by omega),
    List.getD_eq_getElem _ _ (by omega), List.getD_eq_getElem _ _ (by omega), List.getElem_take]

/-- Byte `i` of copies of `u` is the byte of `u` at that place in its copy. -/
theorem getD_flatten_replicate {m i : Nat} (u : List Byte) (hi : i < u.length * m) :
    (List.replicate m u).flatten.getD i 0#8 = u.getD (i % u.length) 0#8 := by
  induction m generalizing i with
  | zero => omega
  | succ m ih =>
    rw [List.replicate_succ, List.flatten_cons]
    by_cases hu : i < u.length
    · rw [List.getD_append _ _ _ _ hu, Nat.mod_eq_of_lt hu]
    · have hle : u.length ≤ i := Nat.le_of_not_lt hu
      rw [List.getD_append_right _ _ _ _ hle, ih (by rw [Nat.mul_succ] at hi; omega), ← Nat.mod_eq_sub_mod hle]

/-- Whole copies of `u` cycle as `u` does. -/
theorem cycled_flatten_replicate {u : List Byte} (hu : u ≠ []) {m : Nat} (hm : 1 ≤ m) (j : Nat) :
    cycled (List.replicate m u).flatten j = cycled u j := by
  have hpos : 0 < u.length * m := Nat.mul_pos (List.length_pos_iff.mpr hu) hm
  have hlen : (List.replicate m u).flatten.length = u.length * m := by simp [Nat.mul_comm]
  rw [cycled, hlen, getD_flatten_replicate u (Nat.mod_lt _ hpos), Nat.mod_mul_right_mod, cycled]

/-- Settles O29: in each part the two keys have the same first 72 cycled bytes, and CAP56 = 1 caps KEYLEN at 56. -/
theorem scheduleLaws : Obligations.ScheduleLaws := by
  refine ⟨fun init k k' _ _ h => schedule_congr h, fun init k hk => schedule_congr fun j hj => cycled_take_72 hk hj,
    fun init u m hu hm => schedule_congr fun j _ => cycled_flatten_replicate hu hm j, fun s hs => ?_⟩
  rw [State.effectiveKey, keyCap_eq, if_pos rfl, Nat.min_eq_right hs]
  rfl

end Sys2Proof.Machine

/-! The commands of the cipher core: NOP, KEY_INIT, ENC_BLK and DEC_BLK (41_block_cipher.md R110 to R114; O23, O30,
O31). -/

namespace Sys2Proof.Machine

open Sys2Proof.Reading

variable {s : State} {i : Instr}

/-! ## NOP (41_block_cipher.md R114) -/

/-- 30_encoding.md R81: the low byte of a command's word is its OPC. -/
theorem opc_of_encode (i : Instr) : (encode i).toNat % 256 = (opcOf i).toNat := by
  have lowByte (f o : BitVec 8) : (f.setWidth 32 <<< 8 ||| o.setWidth 32 : Word).extractLsb' 0 8 = o := by
    apply BitVec.eq_of_getLsbD_eq
    intro n hn
    interval_cases n <;> simp
  rw [← lowByte (flagsOf i) (opcOf i)]
  simp [encode]

/-- 30_encoding.md R83: OPC 0 is NOP's alone. -/
theorem eq_nop_of_opcOf (h : (opcOf i).toNat = 0) : i = .nop := by
  cases i with
  | nop => rfl
  | _ => simp [opcOf] at h

/-- Settles O23: a word with OPC 0 that decodes is the one encoding of NOP, which is 0. -/
theorem nopCompletes : Obligations.NopCompletes := by
  refine ⟨decode_encode .nop, fun w hopc hne => ?_, fun s => rfl⟩
  match hd : decode w with
  | .error e => exact ⟨e, rfl⟩
  | .ok i =>
    obtain rfl := encode_of_decode hd
    obtain rfl := eq_nop_of_opcOf ((opc_of_encode i).symm.trans hopc)
    exact absurd rfl hne

/-! ## KEY_INIT (41_block_cipher.md R104, R110) -/

theorem exec_keyInit_badKeyLen (cap56 : Bool) (h : s.keyLen.toNat = 0 ∨ 80 < s.keyLen.toNat) :
    exec (.keyInit cap56) s = raise .keyLen s := if_pos h

theorem exec_keyInit_ok (cap56 : Bool) (h1 : 1 ≤ s.keyLen.toNat) (h80 : s.keyLen.toNat ≤ 80) :
    exec (.keyInit cap56) s =
      complete { s with sched := schedule initTables (s.effectiveKey cap56), keyValid := true } :=
  if_neg (by rw [keyBytes_eq]; omega)

/-- The check values of INIT_P and of the four tables (42_cipher_tables.md R132). -/
theorem tableCheck_initTables :
    tableCheck initTables.p.toList 0x243F6A88#32 0x8979FB1B#32 0xB73AD7EA#32 0x8E4D14CC#32 ∧
    tableCheck initTables.s[0].toList 0xD1310BA6#32 0x6E85076A#32 0x4EB4DB7F#32 0x4B745115#32 ∧
    tableCheck initTables.s[1].toList 0x4B7A70E9#32 0xDB83ADF7#32 0xC727E122#32 0x72FF37B2#32 ∧
    tableCheck initTables.s[2].toList 0xE93D5A68#32 0x406000E0#32 0x462A5D01#32 0x2AC02B91#32 ∧
    tableCheck initTables.s[3].toList 0x3A39CE37#32 0x3AC372E6#32 0x1779E2BC#32 0xF43E3A88#32 := by
  unfold tableCheck
  decide +kernel

/-- The check values of F and encipher under INIT_TABLES (42_cipher_tables.md R132). -/
theorem cipherCheck_initTables : feistelF initTables.s 0#32 = 0x2FCFF51E#32 ∧
    encipher initTables { l := 0#32, r := 0#32 } = { l := 0x706D9FCC#32, r := 0x1792D23A#32 } := by
  decide +kernel

/-- Settles O30: the check values by evaluation, and the command by its range check on KEYLEN. -/
theorem keyInitDerivesSchedule : Obligations.KeyInitDerivesSchedule := by
  obtain ⟨hp, hs0, hs1, hs2, hs3⟩ := tableCheck_initTables
  obtain ⟨hf, hencipher⟩ := cipherCheck_initTables
  refine ⟨decode_encode (.keyInit false), decode_encode (.keyInit true), hp, hs0, hs1, hs2, hs3, hf, hencipher,
    fun s cap56 => ⟨fun h1 h80 => ?_, exec_keyInit_badKeyLen cap56⟩⟩
  rw [exec_keyInit_ok cap56 h1 h80, effectiveKey_eq]
  rfl

/-! ## ENC_BLK and DEC_BLK (41_block_cipher.md R112, R113) -/

theorem blockCommand_keyed (f : Schedule → Block → Block) (hk : s.keyValid = true) : blockCommand f s =
    complete { s with blkL := (f s.sched s.blk).l, blkR := (f s.sched s.blk).r } := if_pos hk

theorem blockCommand_noKey (f : Schedule → Block → Block) (hk : s.keyValid = false) :
    blockCommand f s = raise .noKey s := if_neg (by simp [hk])

/-- Settles O31: both commands are `blockCommand`, of encipher and of decipher. -/
theorem blockCommands : Obligations.BlockCommands :=
  ⟨decode_encode .encBlk, decode_encode .decBlk, fun _ =>
    ⟨blockCommand_keyed encipher, blockCommand_keyed decipher,
      fun hk => ⟨blockCommand_noKey encipher hk, blockCommand_noKey decipher hk⟩⟩⟩

end Sys2Proof.Machine

/-! ECB and XFER (43_modes_and_iv.md R140 to R147, R156; O32, O33, O34, O42), and before them what CBC needs too: what
a command that outputs leaves, and the blocks of a byte string by index. -/

namespace Sys2Proof.Machine

open Sys2Proof.Reading

variable {s : State} {i enc dec : Instr} {c : Block} {out src rest : List Byte}

/-! ## The state after a successful output -/

/-- The end of a block-mode command: its output in OBUF and OUTLEN, its last chain value in CHAIN, RESULT = OK. -/
def State.produce (s : State) (out : List Byte) (c : Block) : State := ((s.putOutput out).putChain c).finish .ok

theorem outLen_produce (h : out.length ≤ 2048) : (s.produce out c).outLen.toNat = out.length :=
  putOutput_outLen_toNat s h

/-- Byte `k` of OBUF below the new OUTLEN is byte `k` of the output. -/
theorem outputAt_produce {k : Nat} (hk : k < out.length) : outputAt (s.produce out c) k = out.getD k 0#8 := by
  have h := byteAt_putOutput s out (obufOff + k)
  rwa [if_pos (by omega), Nat.add_sub_cancel_left] at h

theorem obuf_produce : (s.produce out c).obuf out.length = out :=
  State.bytes_of_written fun _ hk => outputAt_produce hk

/-- Nothing but the output, OUTLEN, CHAIN, RESULT and BUSY changes (43_modes_and_iv.md R141). -/
theorem outputFrame_produce (h : out.length ≤ 2048) :
    outputFrame { s with chainL := c.l, chainR := c.r } (s.produce out c) out.length := by
  refine ⟨rfl, outLen_produce h, fun x hx => ?_⟩
  have h := byteAt_putOutput s out x
  rwa [if_neg (by omega)] at h

/-! ## Blocks by the index of their bytes (10_state.md R33, 43_modes_and_iv.md R140) -/

/-- Block `j` of a byte string is the one that any reading of the string by index gives. -/
theorem getElem?_blocks_eq_blockAt {f : Nat → Byte} {j : Nat} (hf : ∀ k < src.length, f k = src.getD k 0#8)
    (hj : j < src.length / 8) : (blocks src)[j]? = some (blockAt f (8 * j)) := by
  rw [getElem?_blocks (by omega)]
  simp (disch := omega) only [blockAt, wordAt, hf]

theorem getElem?_eq_blockAt_outputAt {bs : List Block} {j : Nat} (hj : j < bs.length) :
    bs[j]? = some (blockAt (outputAt (s.produce (bytesOf bs) c)) (8 * j)) := by
  conv_lhs => rw [← blocks_bytesOf bs]
  exact getElem?_blocks_eq_blockAt (fun k hk => outputAt_produce hk) (by rw [length_bytesOf]; omega)

theorem getElem?_blocks_zeroPad {f : Nat → Byte} {j : Nat} (hf : ∀ k, f k = src.getD k 0#8)
    (hj : j < pad8 src.length / 8) : (blocks (zeroPad src))[j]? = some (blockAt f (8 * j)) :=
  getElem?_blocks_eq_blockAt (fun k _ => (hf k).trans (getD_zeroPad src k).symm) (by rwa [length_zeroPad])

theorem inputAt_eq_getD (s : State) (k : Nat) : inputAt s k = s.input.getD k 0#8 := (getD_input k).symm

/-- 43_modes_and_iv.md R150: with PIV = 1 the IV's bytes stand in front of the input. -/
theorem cbcInputAt_eq_getD (s : State) (piv : Bool) (k : Nat) :
    cbcInputAt s piv k = (s.cbcSource piv).getD k 0#8 := by
  cases piv with
  | false => exact inputAt_eq_getD s k
  | true =>
    simp only [cbcInputAt, if_true, State.cbcSource, inputAt_eq_getD]
    split
    · exact (List.getD_append (blockBytes s.iv) s.input 0#8 k ‹k < 8›).symm
    · exact (List.getD_append_right (blockBytes s.iv) s.input 0#8 k (Nat.le_of_not_lt ‹¬ k < 8›)).symm

theorem zeroPad_append (h : 8 ∣ src.length) : zeroPad (src ++ rest) = src ++ zeroPad rest := by
  have hpad : pad8 (src.length + rest.length) = src.length + pad8 rest.length := by
    unfold pad8; omega
  rw [zeroPad, zeroPad, List.append_assoc, List.length_append, hpad, Nat.add_sub_add_left]

/-- The blocks of two byte strings one after the other, the first of which needs no padding. -/
theorem blocks_zeroPad_append (h : 8 ∣ src.length) :
    blocks (zeroPad (src ++ rest)) = blocks (zeroPad src) ++ blocks (zeroPad rest) := by
  rw [zeroPad_append h, blocks_append h, zeroPad_of_dvd h]

theorem pad8_inLen_le (hi : s.inLen.toNat ≤ 1024) : pad8 s.inLen.toNat ≤ 1024 := pad8_le hi (by decide)

/-! ## XFER (43_modes_and_iv.md R156) -/

/-- What XFER leaves when OUTLEN is in range. -/
def State.transfer (s : State) : State :=
  { s with mem := s.mem.writeBytes ibufOff (s.obuf s.outLen.toNat), inLen := s.outLen }.finish .ok

theorem exec_xfer (h : s.outLen.toNat ≤ 1024) : exec .xfer s = .next s.transfer := if_neg (Nat.not_lt.mpr h)

theorem byteAt_transfer (s : State) (x : Nat) : s.transfer.byteAt x =
    if ibufOff ≤ x ∧ x < ibufOff + s.outLen.toNat then s.byteAt (obufOff + (x - ibufOff)) else s.byteAt x := by
  have h := State.byteAt_writeBytes (s := s) (a := ibufOff) (bs := s.obuf s.outLen.toNat) (x := x)
  rw [State.obuf, State.length_bytes] at h
  refine h.trans ?_
  split
  · rw [List.getD_eq_getElem _ _ (by rw [State.length_bytes]; omega), State.getElem_bytes]
  · rfl

/-- Settles O42: both cases of the range check, and the bytes of IBUF inside and outside the copy. -/
theorem xferCopiesOutput : Obligations.XferCopiesOutput := by
  refine ⟨decode_encode .xfer, fun s => ⟨fun h => ⟨s.transfer, exec_xfer h, rfl, fun k hk => ?_, fun x hx => ?_⟩,
    fun h => if_pos h⟩⟩
  · rw [byteAt_transfer, if_pos (by omega), Nat.add_sub_cancel_left]
  · rw [byteAt_transfer, if_neg (by omega)]

/-- `t` has `out` for its input, and the key, the schedule and the IV of `s`. -/
structure Receives (s : State) (out : List Byte) (t : State) : Prop where
  keyValid : t.keyValid = s.keyValid
  sched : t.sched = s.sched
  iv : t.iv = s.iv
  inLen : t.inLen.toNat = out.length
  input : t.input = out

/-- XFER makes an output that fits IBUF the input. -/
theorem receives_transfer_produce (h : out.length ≤ 1024) : Receives s out (s.produce out c).transfer where
  keyValid := rfl
  sched := rfl
  iv := rfl
  inLen := outLen_produce (s := s) (c := c) (by omega)
  input := by
    have hlen : (s.produce out c).outLen.toNat = out.length := outLen_produce (by omega)
    have hbytes : (s.produce out c).transfer.input = (s.produce out c).obuf (s.produce out c).outLen.toNat := by
      refine List.map_congr_left fun k hk => ?_
      rw [byteAt_transfer, if_pos, Nat.add_sub_cancel_left]
      exact ⟨Nat.le_add_right _ _, Nat.add_lt_add_left (List.mem_range.mp hk) _⟩
    rw [hbytes, hlen, obuf_produce]

/-- A command, XFER, and a command that makes the zero-padded input of the output of the first. -/
theorem roundTrip (henc : exec enc s = .next (s.produce out c)) (hout : out.length ≤ 1024)
    (hi : s.inLen.toNat ≤ 1024)
    (hdec : ∀ t, Receives s out t → ∃ c', exec dec t = .next (t.produce (zeroPad s.input) c')) :
    ∃ s1 s2 s3, exec enc s = .next s1 ∧ exec .xfer s1 = .next s2 ∧ exec dec s2 = .next s3 ∧
      s3.result = .ok ∧ s3.outLen.toNat = pad8 s.inLen.toNat ∧
      ∀ k < pad8 s.inLen.toNat, outputAt s3 k = inputAt s k := by
  obtain ⟨c', hplain⟩ := hdec _ (receives_transfer_produce (c := c) hout)
  have hxfer : (s.produce out c).outLen.toNat ≤ 1024 := by rw [outLen_produce (by omega)]; exact hout
  have hlen : (zeroPad s.input).length = pad8 s.inLen.toNat := by rw [length_zeroPad, length_input]
  have hle := pad8_inLen_le hi
  refine ⟨_, _, _, henc, exec_xfer hxfer, hplain, rfl, ?_, fun k hk => ?_⟩
  · rw [outLen_produce (by omega), hlen]
  · rw [outputAt_produce (by omega), getD_zeroPad, inputAt_eq_getD]

/-! ## ECB (43_modes_and_iv.md R145 to R147) -/

/-- What both ECB commands do, by the index of the blocks. -/
theorem ecb_output {f : Block → Block} (he : exec i s = .next (s.produce (ecb f s.input) s.chain))
    (hi : s.inLen.toNat ≤ 1024) : ∃ t, exec i s = .next t ∧ outputFrame s t (pad8 s.inLen.toNat) ∧
      ∀ j < pad8 s.inLen.toNat / 8, blockAt (outputAt t) (8 * j) = f (blockAt (inputAt s) (8 * j)) := by
  have hlen : (ecb f s.input).length = pad8 s.inLen.toNat := by rw [length_ecb, length_input]
  have hle := pad8_inLen_le hi
  refine ⟨_, he, ?_, fun j hj => ?_⟩
  · rw [← hlen]
    exact outputFrame_produce (s := s) (c := s.chain) (by omega)
  · have hin : (blocks (zeroPad s.input))[j]? = some (blockAt (inputAt s) (8 * j)) :=
      getElem?_blocks_zeroPad (inputAt_eq_getD s) (by rwa [length_input])
    have hout := getElem?_eq_blockAt_outputAt (s := s) (c := s.chain) (bs := (blocks (zeroPad s.input)).map f) (j := j)
      (by rwa [List.length_map, length_blocks_zeroPad, length_input])
    rw [List.getElem?_map, hin] at hout
    exact (Option.some.inj hout).symm

/-- Settles O32: ECB with encipher. -/
theorem ecbEncEnciphersBlocks : Obligations.EcbEncEnciphersBlocks := fun _ hk hi => ecb_output (exec_ecbEnc hk hi) hi

/-- Settles O33: ECB with decipher. -/
theorem ecbDecDeciphersBlocks : Obligations.EcbDecDeciphersBlocks := fun _ hk hi => ecb_output (exec_ecbDec hk hi) hi

/-- ECB with a function and then with its inverse leaves the padding only. -/
theorem ecb_ecb {f g : Block → Block} (h : ∀ b, g (f b) = b) : ecb g (ecb f src) = zeroPad src := by
  have hpad : zeroPad (ecb f src) = ecb f src := zeroPad_of_dvd (by rw [length_ecb]; exact pad8_dvd _)
  have hinv : g ∘ f = id := funext h
  rw [ecb, hpad, blocks_ecb, List.map_map, hinv, List.map_id,
    bytesOf_blocks (by rw [length_zeroPad]; exact pad8_dvd _)]

theorem decipher_encipher (sc : Schedule) (b : Block) : decipher sc (encipher sc b) = b :=
  (decipherInvertsEncipher sc b).1

/-- Settles O34: XFER makes the ciphertext the input of ECB_DEC. -/
theorem ecbRoundTrip : Obligations.EcbRoundTrip := by
  intro s hk hi
  have hlen : (ecb (encipher s.sched) s.input).length ≤ 1024 := by
    rw [length_ecb, length_input]; exact pad8_inLen_le hi
  refine roundTrip (c := s.chain) (exec_ecbEnc hk hi) hlen hi fun t ht => ⟨t.chain, ?_⟩
  rw [exec_ecbDec (ht.keyValid.trans hk) (ht.inLen.trans_le hlen), ht.sched, ht.input, ecb_ecb (decipher_encipher _)]
  rfl

end Sys2Proof.Machine

/-! CBC and the IV generator (43_modes_and_iv.md R148 to R153; O35 to O41): the blocks that the CBC commands output, and
the laws of R152 about them. -/

namespace Sys2Proof.Machine

open Sys2Proof.Reading

variable {s t a b : State} {i cont : Instr} {chs : ChainStart} {piv : Bool} {c c₁ c₂ : Block} {bs : List Block}

/-! ## What the CBC commands output (43_modes_and_iv.md R150, R151) -/

/-- The ciphertext blocks of CBC_ENC and the last chain value. -/
def State.cbcEncOut (s : State) (chs : ChainStart) (piv : Bool) : List Block × Block :=
  cbcEncrypt (encipher s.sched) (s.chainStart chs) (blocks (zeroPad (s.cbcSource piv)))

/-- The plaintext blocks of CBC_DEC, before any is discarded, and the last chain value. -/
def State.cbcDecOut (s : State) (chs : ChainStart) : List Block × Block :=
  cbcDecrypt (decipher s.sched) (s.chainStart chs) (blocks (zeroPad s.input))

/-- The eight bytes that DROP = 1 discards are the first block, if there is one. -/
theorem drop_dropCount (drop : Bool) (bs : List Block) :
    (bytesOf bs).drop (dropCount drop (bytesOf bs).length) = bytesOf (bs.drop drop.toNat) := by
  cases drop with
  | false => rfl
  | true =>
    cases bs with
    | nil => rfl
    | cons b bs =>
      have hcount : dropCount true (bytesOf (b :: bs)).length = 8 := by simp [dropCount]
      rw [hcount]
      exact List.drop_left' (length_blockBytes b)

/-- With PIV = 1 the IV is the first block of the source (43_modes_and_iv.md R150). -/
theorem blocks_cbcSource_true (s : State) :
    blocks (zeroPad (s.cbcSource true)) = s.iv :: blocks (zeroPad s.input) := by
  rw [State.cbcSource, if_pos rfl, zeroPad_append (by simp), blocks_blockBytes_append]

theorem exec_cbcEnc_produce (chs : ChainStart) (piv : Bool) (hk : s.keyValid = true) (hi : s.inLen.toNat ≤ 1024) :
    exec (.cbcEnc chs piv) s = .next (s.produce (bytesOf (s.cbcEncOut chs piv).1) (s.cbcEncOut chs piv).2) :=
  exec_cbcEnc chs piv hk hi

theorem exec_cbcDec_produce (chs : ChainStart) (drop : Bool) (hk : s.keyValid = true) (hi : s.inLen.toNat ≤ 1024) :
    exec (.cbcDec chs drop) s =
      .next (s.produce (bytesOf ((s.cbcDecOut chs).1.drop drop.toNat)) (s.cbcDecOut chs).2) := by
  rw [exec_cbcDec chs drop hk hi, ← drop_dropCount]
  rfl

theorem length_cbcEncOut (s : State) (chs : ChainStart) (piv : Bool) :
    (s.cbcEncOut chs piv).1.length = pad8 ((if piv then 8 else 0) + s.inLen.toNat) / 8 := by
  rw [State.cbcEncOut, length_cbcEncrypt, length_blocks_zeroPad, length_cbcSource]

theorem length_bytesOf_cbcEncOut (s : State) (chs : ChainStart) (piv : Bool) :
    (bytesOf (s.cbcEncOut chs piv).1).length = pad8 ((if piv then 8 else 0) + s.inLen.toNat) := by
  rw [length_bytesOf, length_cbcEncOut, Nat.mul_div_cancel' (pad8_dvd _)]

/-- With the IV in front of the largest input the source has 1032 bytes. -/
theorem length_bytesOf_cbcEncOut_le (chs : ChainStart) (piv : Bool) (hi : s.inLen.toNat ≤ 1024) :
    (bytesOf (s.cbcEncOut chs piv).1).length ≤ 2048 := by
  rw [length_bytesOf_cbcEncOut]
  exact pad8_le (by split <;> omega) (by decide)

theorem length_cbcDecOut (s : State) (chs : ChainStart) :
    (s.cbcDecOut chs).1.length = pad8 s.inLen.toNat / 8 := by
  rw [State.cbcDecOut, length_cbcDecrypt, length_blocks_zeroPad, length_input]

/-- The chain's start value by CHS (43_modes_and_iv.md R148). -/
theorem chainStartValue_eq (s : State) (chs : ChainStart) : chainStartValue s chs = s.chainStart chs := by
  cases chs <;> rfl

/-- The block that the chain takes at block `j`, with the blocks read by index. -/
theorem previousBlock_eq {block : Nat → Block} {n j : Nat} (h : ∀ k < n, bs[k]? = some (block k)) (hj : j < n) :
    (if j = 0 then c else bs.getD (j - 1) c) = if j = 0 then c else block (j - 1) := by
  split
  · rfl
  · rw [List.getD_eq_getElem?_getD, h (j - 1) (by omega), Option.getD_some]

/-- The last of the blocks of `m` bytes, with the blocks read by index. -/
theorem lastBlock_eq {block : Nat → Block} {m : Nat} (h : ∀ k < m / 8, bs[k]? = some (block k))
    (hlen : bs.length = m / 8) (h8 : 8 ∣ m) : bs.getLastD c = if m = 0 then c else block (m / 8 - 1) := by
  rw [List.getLastD_eq_getLast?, List.getLast?_eq_getElem?, hlen]
  split
  · rw [List.getElem?_eq_none (by omega), Option.getD_none]
  · rw [h (m / 8 - 1) (by omega), Option.getD_some]

/-- Settles O35: the blocks of the source and of the output by index, and the last of them. -/
theorem cbcEncChainsBlocks : Obligations.CbcEncChainsBlocks := by
  intro s chs piv hk hi m
  have hlen : (s.cbcEncOut chs piv).1.length = m / 8 := length_cbcEncOut s chs piv
  have hin (j : Nat) (hj : j < m / 8) :
      (blocks (zeroPad (s.cbcSource piv)))[j]? = some (blockAt (cbcInputAt s piv) (8 * j)) :=
    getElem?_blocks_zeroPad (cbcInputAt_eq_getD s piv) (by rwa [length_cbcSource])
  have hout (j : Nat) (hj : j < m / 8) := getElem?_eq_blockAt_outputAt (s := s) (c := (s.cbcEncOut chs piv).2)
    (bs := (s.cbcEncOut chs piv).1) (hj.trans_eq hlen.symm)
  refine ⟨_, exec_cbcEnc_produce chs piv hk hi, ?frame, fun j hj => ?block, ?chain⟩
  case frame =>
    have hframe := outputFrame_produce (s := s) (c := (s.cbcEncOut chs piv).2) (length_bytesOf_cbcEncOut_le chs piv hi)
    rwa [length_bytesOf_cbcEncOut] at hframe
  case block =>
    have hblock := getElem?_cbcEncrypt (f := encipher s.sched) (c := s.chainStart chs)
      (bs := blocks (zeroPad (s.cbcSource piv))) j
    rw [← State.cbcEncOut, hin j hj, hout j hj, previousBlock_eq hout hj] at hblock
    rw [chainStartValue_eq]
    exact Option.some.inj hblock
  case chain =>
    rw [chainStartValue_eq, ← lastBlock_eq hout hlen (pad8_dvd _)]
    exact cbcEncrypt_chain

theorem length_bytesOf_cbcDecOut_le (chs : ChainStart) (drop : Bool) (hi : s.inLen.toNat ≤ 1024) :
    (bytesOf ((s.cbcDecOut chs).1.drop drop.toNat)).length ≤ 2048 := by
  have := pad8_inLen_le hi
  rw [length_bytesOf, List.length_drop, length_cbcDecOut]
  omega

/-- Settles O36: as O35, with the block before taken from the input, and the blocks moved up when one is discarded. -/
theorem cbcDecUnchainsBlocks : Obligations.CbcDecUnchainsBlocks := by
  intro s chs drop hk hi m d plain
  have hm : m ≤ 1024 := pad8_inLen_le hi
  have h8 : 8 ∣ m := pad8_dvd _
  have hlen : (s.cbcDecOut chs).1.length = m / 8 := length_cbcDecOut s chs
  have hd : d / 8 = min drop.toNat (m / 8) ∧ 8 ∣ d := by
    cases drop with
    | false => simp [d]
    | true =>
      simp only [d, if_true, Bool.toNat_true]
      omega
  have hkept : ((s.cbcDecOut chs).1.drop drop.toNat).length = (m - d) / 8 := by
    rw [List.length_drop, hlen]; omega
  have hbytes : (bytesOf ((s.cbcDecOut chs).1.drop drop.toNat)).length = m - d := by
    rw [length_bytesOf, hkept]; omega
  have hin (j : Nat) (hj : j < m / 8) : (blocks (zeroPad s.input))[j]? = some (blockAt (inputAt s) (8 * j)) :=
    getElem?_blocks_zeroPad (inputAt_eq_getD s) (by rwa [length_input])
  have hplain (j : Nat) (hj : j < m / 8) : (s.cbcDecOut chs).1[j]? = some (plain j) := by
    rw [State.cbcDecOut, getElem?_cbcDecrypt, previousBlock_eq hin hj, hin j hj, ← chainStartValue_eq]
    rfl
  refine ⟨_, exec_cbcDec_produce chs drop hk hi, ?frame, fun j hj => ?block, ?chain⟩
  case frame =>
    rw [← hbytes]
    exact outputFrame_produce (by omega)
  case block =>
    have hout := getElem?_eq_blockAt_outputAt (s := s) (c := (s.cbcDecOut chs).2) (hj.trans_eq hkept.symm)
    rw [List.getElem?_drop, hplain _ (by omega)] at hout
    rw [← Option.some.inj hout]
    congr 1
    omega
  case chain =>
    rw [chainStartValue_eq, ← lastBlock_eq hin (by rw [length_blocks_zeroPad, length_input]) h8]
    exact cbcDecrypt_chain

/-! ## The laws of CBC (43_modes_and_iv.md R152) -/

theorem blockXor_zero (b : Block) : blockXor b { l := 0#32, r := 0#32 } = b := by simp [blockXor]

/-- CBC_DEC with the ciphertext of CBC_ENC for its input, from the same chain start, gives the blocks of the source. -/
theorem cbcDecOut_of_receives (h : Receives s (bytesOf (s.cbcEncOut chs piv).1) t) (hchs : chs ≠ .cont) :
    (t.cbcDecOut chs).1 = blocks (zeroPad (s.cbcSource piv)) := by
  have hstart : t.chainStart chs = s.chainStart chs := by
    cases chs with
    | zero => rfl
    | iv => exact h.iv
    | cont => exact absurd rfl hchs
  have hblocks : blocks (zeroPad t.input) = (s.cbcEncOut chs piv).1 := by
    rw [h.input, zeroPad_of_dvd (by simp), blocks_bytesOf]
  rw [State.cbcDecOut, hstart, hblocks, h.sched]
  exact cbcDecrypt_cbcEncrypt (decipher_encipher s.sched)

/-- 43_modes_and_iv.md R152(a), with PIV = DROP: the IV block put in front is the one that is discarded. -/
theorem cbc_roundTrip (hk : s.keyValid = true) (hi : s.inLen.toNat ≤ 1024) (hchs : chs ≠ .cont)
    (hroom : (if piv then 8 else 0) + s.inLen.toNat ≤ 1024) :
    ∃ s1 s2 s3, exec (.cbcEnc chs piv) s = .next s1 ∧ exec .xfer s1 = .next s2 ∧
      exec (.cbcDec chs piv) s2 = .next s3 ∧ s3.result = .ok ∧ s3.outLen.toNat = pad8 s.inLen.toNat ∧
      ∀ k < pad8 s.inLen.toNat, outputAt s3 k = inputAt s k := by
  have hout : (bytesOf (s.cbcEncOut chs piv).1).length ≤ 1024 := by
    rw [length_bytesOf_cbcEncOut]
    exact pad8_le hroom (by decide)
  have hplain : bytesOf ((blocks (zeroPad (s.cbcSource piv))).drop piv.toNat) = zeroPad s.input := by
    have hinput : bytesOf (blocks (zeroPad s.input)) = zeroPad s.input := bytesOf_blocks (by simpa using pad8_dvd _)
    cases piv with
    | false => exact hinput
    | true =>
      rw [blocks_cbcSource_true]
      exact hinput
  refine roundTrip (exec_cbcEnc_produce chs piv hk hi) hout hi fun t ht => ⟨(t.cbcDecOut chs).2, ?_⟩
  rw [exec_cbcDec_produce chs piv (ht.keyValid.trans hk) (ht.inLen.trans_le hout), cbcDecOut_of_receives ht hchs, hplain]

/-- Settles O37: with CHS zero or iv, and in the modern form. -/
theorem cbcRoundTrip : Obligations.CbcRoundTrip := fun s hk hi =>
  ⟨fun chs hchs => cbc_roundTrip hk hi hchs (by simpa), fun hroom => cbc_roundTrip hk hi (by decide) (by simp; omega)⟩

/-- 43_modes_and_iv.md R152(b): in the modern form the first block is the enciphered IV, and the rest continue from it. -/
theorem cbcEncOut_zero_piv (s : State) : (s.cbcEncOut .zero true).1 =
    encipher s.sched s.iv :: (cbcEncrypt (encipher s.sched) (encipher s.sched s.iv) (blocks (zeroPad s.input))).1 := by
  rw [State.cbcEncOut, blocks_cbcSource_true, cbcEncrypt, State.chainStart, blockXor_zero]

/-- In the modern form the output begins with the enciphered IV. -/
theorem blockAt_zero_modern : blockAt (outputAt (s.produce (bytesOf (s.cbcEncOut .zero true).1) c)) 0 =
    encipher s.sched s.iv := by
  have h := getElem?_eq_blockAt_outputAt (s := s) (c := c) (bs := (s.cbcEncOut .zero true).1) (j := 0)
    (by simp [cbcEncOut_zero_piv])
  rw [cbcEncOut_zero_piv] at h ⊢
  exact (Option.some.inj h).symm

/-- Settles O38: the output is the enciphered IV and then what the second form gives. -/
theorem cbcSourceFormsAgree : Obligations.CbcSourceFormsAgree := by
  intro s hk hi c0
  let s' : State := { s with ivL := c0.l, ivR := c0.r }
  have hsplit : (s.cbcEncOut .zero true).1 = c0 :: (s'.cbcEncOut .iv false).1 := cbcEncOut_zero_piv s
  have hout : bytesOf (s.cbcEncOut .zero true).1 = blockBytes c0 ++ bytesOf (s'.cbcEncOut .iv false).1 := by
    rw [hsplit, bytesOf_cons]
  have hwhole := length_bytesOf_cbcEncOut_le (s := s) .zero true hi
  have hrest := length_bytesOf_cbcEncOut_le (s := s') .iv false hi
  refine ⟨_, _, exec_cbcEnc_produce .zero true hk hi, exec_cbcEnc_produce (s := s') .iv false hk hi, ?_,
    blockAt_zero_modern, fun k hku => ?_⟩
  · rw [outLen_produce hwhole, outLen_produce hrest, hout, List.length_append, length_blockBytes]
  · rw [outLen_produce hrest] at hku
    rw [outputAt_produce (by rw [hout, List.length_append, length_blockBytes]; omega), outputAt_produce hku, hout,
      List.getD_append_right _ _ _ _ (Nat.le_add_right 8 k), length_blockBytes, Nat.add_sub_cancel_left]

theorem encipher_injective (sc : Schedule) : Function.Injective (encipher sc) :=
  Function.LeftInverse.injective (decipher_encipher sc)

/-- Settles O40: the first blocks are the IVs under a permutation, so they differ in some byte. -/
theorem cbcDiffersWithTheIv : Obligations.CbcDiffersWithTheIv := by
  intro s t s' t' hks hkt hsched his hit hiv hs ht
  rw [exec_cbcEnc_produce _ _ hks his] at hs
  rw [exec_cbcEnc_produce _ _ hkt hit] at ht
  cases hs
  cases ht
  by_contra! hsame
  have hblock : encipher s.sched s.iv = encipher s.sched t.iv := by
    rw [← blockAt_zero_modern (c := (s.cbcEncOut .zero true).2), hsched,
      ← blockAt_zero_modern (c := (t.cbcEncOut .zero true).2)]
    simp only [blockAt, wordAt]
    simp (disch := omega) only [hsame]
  have heq : s.iv = t.iv := encipher_injective _ hblock
  exact hiv.elim (· (congrArg Block.l heq)) (· (congrArg Block.r heq))

/-! ## An input in two commands (43_modes_and_iv.md R152(c)) -/

/-- Commands that output two byte strings one after the other, in one go and one by one. -/
theorem splitsInto_of_produce {out₁ out₂ : List Byte} (hs : exec i s = .next (s.produce (out₁ ++ out₂) c₂))
    (ha : exec i a = .next (a.produce out₁ c₁))
    (hb : b.chain = c₁ → exec cont b = .next (b.produce out₂ c₂)) (hlen : (out₁ ++ out₂).length ≤ 2048) :
    splitsInto s i a cont b := by
  rw [List.length_append] at hlen
  have hfirst : (a.produce out₁ c₁).outLen.toNat = out₁.length := outLen_produce (by omega)
  refine ⟨_, _, hs, ha, fun hl hr => ⟨_, hb ?_, ?_, fun k hk => ?_, fun k hk => ?_, rfl, rfl⟩⟩
  · rw [State.chain, hl, hr]; rfl
  · rw [hfirst, outLen_produce (by simpa), outLen_produce (by omega), List.length_append]
  · rw [hfirst] at hk
    rw [outputAt_produce (by rw [List.length_append]; omega), outputAt_produce hk, List.getD_append _ _ _ _ hk]
  · rw [outLen_produce (by omega)] at hk
    rw [hfirst, outputAt_produce (by rw [List.length_append]; omega), outputAt_produce hk,
      List.getD_append_right _ _ _ _ (Nat.le_add_right _ k), Nat.add_sub_cancel_left]

theorem bytes_add (s : State) (x n m : Nat) : s.bytes x (n + m) = s.bytes x n ++ s.bytes (x + n) m := by
  simp [State.bytes, List.range_add, Function.comp_def, Nat.add_assoc]

/-- The state `s` with INLEN = `n`, for the first of two commands. -/
def State.cutAt (s : State) (n : Nat) : State := { s with inLen := BitVec.ofNat 12 n }

theorem inLen_cutAt {n : Nat} (hi : s.inLen.toNat ≤ 1024) (hn : n ≤ s.inLen.toNat) : (s.cutAt n).inLen.toNat = n := by
  simp only [State.cutAt, BitVec.toNat_ofNat]
  omega

/-- The input of one command is that of the first of two and then that of the second. -/
theorem input_eq_append {n : Nat} (hi : s.inLen.toNat ≤ 1024) (hn : n ≤ s.inLen.toNat)
    (hlen : b.inLen.toNat = s.inLen.toNat - n)
    (hb : ∀ k < b.inLen.toNat, b.byteAt (ibufOff + k) = s.byteAt (ibufOff + (n + k))) :
    s.input = (s.cutAt n).input ++ b.input := by
  have hrest : b.input = s.bytes (ibufOff + n) b.inLen.toNat :=
    List.map_congr_left fun k hk => by rw [hb k (List.mem_range.mp hk), Nat.add_assoc]
  have hfirst : (s.cutAt n).input = s.bytes ibufOff n := by
    rw [State.input, inLen_cutAt hi hn]
    rfl
  rw [hrest, hfirst, ← bytes_add, hlen, Nat.add_sub_cancel' hn]
  rfl

section Cut

variable {n : Nat} (hi : s.inLen.toNat ≤ 1024) (h8 : 8 ∣ n) (hn : n ≤ s.inLen.toNat)
  (hin : s.input = (s.cutAt n).input ++ b.input)

include hi h8 hn hin

theorem blocks_input_cutAt :
    blocks (zeroPad s.input) = blocks (zeroPad (s.cutAt n).input) ++ blocks (zeroPad b.input) := by
  rw [hin]
  exact blocks_zeroPad_append (by rwa [length_input, inLen_cutAt hi hn])

theorem blocks_cbcSource_cutAt (piv : Bool) : blocks (zeroPad (s.cbcSource piv)) =
    blocks (zeroPad ((s.cutAt n).cbcSource piv)) ++ blocks (zeroPad b.input) := by
  have hinput := blocks_input_cutAt hi h8 hn hin
  cases piv with
  | false => exact hinput
  | true =>
    rw [blocks_cbcSource_true, blocks_cbcSource_true, hinput]
    rfl

/-- Encryption of the cut input: that of the first part, and that of the rest from the chain value then left. -/
theorem cbcEncOut_cutAt (chs : ChainStart) (piv : Bool) : s.cbcEncOut chs piv =
    (((s.cutAt n).cbcEncOut chs piv).1 ++
      (cbcEncrypt (encipher s.sched) ((s.cutAt n).cbcEncOut chs piv).2 (blocks (zeroPad b.input))).1,
     (cbcEncrypt (encipher s.sched) ((s.cutAt n).cbcEncOut chs piv).2 (blocks (zeroPad b.input))).2) := by
  have hstart : (s.cutAt n).chainStart chs = s.chainStart chs := by cases chs <;> rfl
  rw [State.cbcEncOut, blocks_cbcSource_cutAt hi h8 hn hin, cbcEncrypt_append, ← hstart]
  rfl

/-- Decryption of the cut input: that of the first part, and that of the rest from the chain value then left. -/
theorem cbcDecOut_cutAt (chs : ChainStart) : s.cbcDecOut chs =
    (((s.cutAt n).cbcDecOut chs).1 ++
      (cbcDecrypt (decipher s.sched) ((s.cutAt n).cbcDecOut chs).2 (blocks (zeroPad b.input))).1,
     (cbcDecrypt (decipher s.sched) ((s.cutAt n).cbcDecOut chs).2 (blocks (zeroPad b.input))).2) := by
  have hstart : (s.cutAt n).chainStart chs = s.chainStart chs := by cases chs <;> rfl
  rw [State.cbcDecOut, blocks_input_cutAt hi h8 hn hin, cbcDecrypt_append, ← hstart]
  rfl

end Cut

theorem cbcEncOut_cont (hs : b.sched = s.sched) (hc : b.chain = c) : b.cbcEncOut .cont false =
    cbcEncrypt (encipher s.sched) c (blocks (zeroPad b.input)) := by
  rw [← hs, ← hc]
  rfl

theorem cbcDecOut_cont (hs : b.sched = s.sched) (hc : b.chain = c) : b.cbcDecOut .cont =
    cbcDecrypt (decipher s.sched) c (blocks (zeroPad b.input)) := by
  rw [← hs, ← hc]
  rfl

/-- Settles O39: the blocks of the cut input one after the other, the chain value of the first going on in the second;
with DROP the discarded block is one of the first command's. -/
theorem cbcSplits : Obligations.CbcSplits := by
  rintro s a b chs n hk hi h8 hn rfl hkb hsb hlenb hbytes
  have hin := input_eq_append hi hn hlenb hbytes
  have hcut : (s.cutAt n).inLen.toNat = n := inLen_cutAt hi hn
  have hia : (s.cutAt n).inLen.toNat ≤ 1024 := by omega
  have hib : b.inLen.toNat ≤ 1024 := by omega
  refine ⟨fun piv => ?encrypt, fun drop hdrop => ?decrypt⟩
  case encrypt =>
    have hlen := length_bytesOf_cbcEncOut_le chs piv hi
    have hs := exec_cbcEnc_produce chs piv hk hi
    rw [cbcEncOut_cutAt hi h8 hn hin, bytesOf_append] at hs hlen
    refine splitsInto_of_produce hs (exec_cbcEnc_produce (s := s.cutAt n) chs piv hk hia) (fun hc => ?_) hlen
    rw [exec_cbcEnc_produce .cont false hkb hib, cbcEncOut_cont hsb hc]
  case decrypt =>
    have hle : drop.toNat ≤ ((s.cutAt n).cbcDecOut chs).1.length := by
      rw [length_cbcDecOut, hcut, pad8_of_dvd h8]
      cases drop with
      | false => exact Nat.zero_le _
      | true =>
        have := hdrop rfl
        rw [Bool.toNat_true]
        omega
    have hlen := length_bytesOf_cbcDecOut_le chs drop hi
    have hs := exec_cbcDec_produce chs drop hk hi
    rw [cbcDecOut_cutAt hi h8 hn hin, List.drop_append_of_le_length hle, bytesOf_append] at hs hlen
    refine splitsInto_of_produce hs (exec_cbcDec_produce (s := s.cutAt n) chs drop hk hia) (fun hc => ?_) hlen
    rw [exec_cbcDec_produce .cont false hkb hib, cbcDecOut_cont hsb hc]
    rfl

/-! ## The IV generator (43_modes_and_iv.md R153) -/

/-- The sum of words is that of their numbers modulo 2^32. -/
theorem add_setWidth_eq_ofNat (r : Word) (ctr : BitVec 16) :
    r + ctr.setWidth 32 = BitVec.ofNat 32 ((r.toNat + ctr.toNat) % 2 ^ 32) := by
  refine BitVec.eq_of_toNat_eq ?_
  have := ctr.isLt
  simp only [BitVec.toNat_add, BitVec.toNat_setWidth, BitVec.toNat_ofNat]
  omega

/-- Settles O41: IV_R by numbers; the rest is what IV_GEN writes. -/
theorem ivGenMakesIv : Obligations.IvGenMakesIv := by
  refine ⟨decode_encode .ivGen, ?_⟩
  intro s drawn
  rw [← add_setWidth_eq_ofNat]
  rfl

end Sys2Proof.Machine

/-! The standard dialect of base64, encoding (44_base64.md R170 to R173; O43, O44, O45). -/

namespace Sys2Proof.Machine

open Sys2Proof.Reading

variable {s : State} {i : Instr} {out src : List Byte}

/-! ## The alphabet (44_base64.md R170) -/

theorem getElem?_standardAlphabet : ∀ v : BitVec 6, standardAlphabet[v.toNat]? = some (stdChar v) := by decide +kernel

/-- std_val gives a value to no byte but the character of that value. -/
theorem stdChar_of_mem_stdVal : ∀ c : Byte, ∀ v ∈ stdVal c, stdChar v = c := by decide +kernel

theorem stdVal_eq_some_iff (c : Byte) (v : BitVec 6) : stdVal c = some v ↔ standardAlphabet[v.toNat]? = some c := by
  rw [getElem?_standardAlphabet, Option.some.injEq]
  exact ⟨stdChar_of_mem_stdVal c v, fun h => h ▸ stdVal_stdChar v⟩

/-- Six bits of a 24-bit value select a character of the alphabet by their number. -/
theorem getElem?_standardAlphabet_sixBits (w : BitVec 24) (k : Nat) :
    standardAlphabet[w.toNat / 2 ^ k % 64]? = some (stdChar (w.extractLsb' k 6)) := by
  rw [← toNat_sixBits, getElem?_standardAlphabet]

/-! ## The encoding by index (44_base64.md R171) -/

/-- The 24-bit value of group `g`, missing bytes being 0 (44_base64.md R171). -/
def groupWordAt (src : List Byte) (g : Nat) : BitVec 24 :=
  be24 (padded src (3 * g)) (padded src (3 * g + 1)) (padded src (3 * g + 2))

/-- The groups after the first are those of what follows the first three bytes. -/
theorem groupWordAt_succ (t0 t1 t2 : Byte) (src : List Byte) (g : Nat) :
    groupWordAt (t0 :: t1 :: t2 :: src) (g + 1) = groupWordAt src g := rfl

theorem getElem?_stdQuad (w : BitVec 24) {k : Nat} (hk : k < 4) :
    (stdQuad w)[k]? = some (stdChar (w.extractLsb' (18 - 6 * k) 6)) := by
  interval_cases k <;> rfl

theorem getElem?_b64 {g k : Nat} (hg : 3 * g < src.length) (hk : k < 4) : (b64 src)[4 * g + k]? =
    some (if src.length < 3 * g + k then padChar else stdChar ((groupWordAt src g).extractLsb' (18 - 6 * k) 6)) := by
  induction src using b64.induct generalizing g with
  | case1 t0 t1 t2 rest ih =>
    simp only [List.length_cons] at hg ⊢
    rw [b64]
    cases g with
    | zero =>
      rw [if_neg (by omega), Nat.mul_zero, Nat.zero_add, List.getElem?_append_left hk]
      exact getElem?_stdQuad _ hk
    | succ g =>
      rw [List.getElem?_append_right (by simp [stdQuad]; omega), groupWordAt_succ]
      have ih := ih (g := g) (by omega)
      have hshift : rest.length + 1 + 1 + 1 < 3 * (g + 1) + k ↔ rest.length < 3 * g + k := by omega
      simp only [hshift, ← ih]
      congr 1
      simp only [stdQuad, List.length_cons, List.length_nil]; omega
  | case2 t0 t1 =>
    obtain rfl : g = 0 := by simp at hg; omega
    interval_cases k <;> rfl
  | case3 t0 =>
    obtain rfl : g = 0 := by simp at hg; omega
    interval_cases k <;> rfl
  | case4 => simp at hg

/-- Settles O43: by the groups of three bytes, the last of which may lack one or two. -/
theorem standardEncodingByIndex : Obligations.StandardEncodingByIndex := by
  refine ⟨getElem?_standardAlphabet, stdVal_eq_some_iff, fun src => ⟨length_b64 src, fun g hg k hk => ?_⟩⟩
  intro w
  have hw : w = (groupWordAt src g).toNat := (toNat_be24 _ _ _).symm
  rw [getElem?_b64 (by omega) hk, hw, getElem?_standardAlphabet_sixBits]
  exact apply_ite some _ _ _

/-! ## The line wrap (44_base64.md R173) -/

/-- Character `k` of the text stands behind the line feeds of the lines that are full before it. -/
theorem getElem?_wrapFrom {room : Nat} (hroom : room ≤ 76) (e : List Byte) (k : Nat) :
    (wrapFrom room e)[k + (k + (76 - room)) / 76]? = e[k]? := by
  induction e generalizing room k with
  | nil => simp [wrapFrom]
  | cons c cs ih =>
    cases room with
    | zero =>
      cases k with
      | zero => rfl
      | succ k =>
        have hindex : k + 1 + (k + 1 + 76) / 76 = k + (k + (76 - 75)) / 76 + 1 + 1 := by omega
        rw [wrapFrom, Nat.sub_zero, hindex]
        exact ih (by decide) k
    | succ room =>
      cases k with
      | zero =>
        have hindex : 0 + (0 + (76 - (room + 1))) / 76 = 0 := by omega
        rw [hindex]; rfl
      | succ k =>
        have hindex : k + 1 + (k + 1 + (76 - (room + 1))) / 76 = k + (k + (76 - room)) / 76 + 1 := by omega
        rw [wrapFrom, hindex]
        exact ih (by omega) k

/-- A line feed follows the first `room` characters, and every 76 after them, where more characters follow. -/
theorem getElem?_wrapFrom_lineFeed {room : Nat} {e : List Byte} {j : Nat} (h : room + 76 * j < e.length) :
    (wrapFrom room e)[room + 77 * j]? = some lineFeed := by
  induction e generalizing room j with
  | nil => simp at h
  | cons c cs ih =>
    rw [List.length_cons] at h
    cases room with
    | zero =>
      cases j with
      | zero => rfl
      | succ j =>
        have hindex : 0 + 77 * (j + 1) = 75 + 77 * j + 1 + 1 := by omega
        rw [wrapFrom, hindex]
        exact ih (room := 75) (by omega)
    | succ room =>
      have hindex : room + 1 + 77 * j = room + 77 * j + 1 := by omega
      rw [wrapFrom, hindex]
      exact ih (by omega)

theorem getElem?_wrap76_lineFeed {e : List Byte} {j : Nat} (hj : 1 ≤ j) (h : 76 * j < e.length) :
    (wrap76 e)[77 * j - 1]? = some lineFeed := by
  have hindex : 77 * j - 1 = 76 + 77 * (j - 1) := by omega
  rw [hindex]
  exact getElem?_wrapFrom_lineFeed (room := 76) (by omega)

/-- Settles O44: a line has room for 76 characters at its start. -/
theorem lineWrapByIndex : Obligations.LineWrapByIndex := fun e =>
  ⟨length_wrap76 e, fun k _ => getElem?_wrapFrom (Nat.le_refl 76) e k, fun _ => getElem?_wrap76_lineFeed⟩

/-! ## The commands that output without a key -/

/-- What a command leaves that outputs and does not write CHAIN: the frame, and the output by index. -/
theorem output_of_produce (he : exec i s = .next (s.produce out s.chain)) (h : out.length ≤ 2048) :
    ∃ t, exec i s = .next t ∧ outputFrame s t out.length ∧ ∀ k < out.length, outputAt t k = padded out k :=
  ⟨_, he, outputFrame_produce (s := s) (c := s.chain) h, fun _ => outputAt_produce⟩

/-- The encoding commands with INLEN in range and an output that fits OBUF (44_base64.md R172, R182). -/
theorem encodeCommand_produce (f : List Byte → List Byte) (hi : s.inLen.toNat ≤ 1024)
    (hf : (f s.input).length ≤ 2048) : encodeCommand f s = .next (s.produce (f s.input) s.chain) := by
  rw [encodeCommand, inLenBad_of_le hi]
  exact if_neg (Nat.not_lt.mpr hf)

/-- Settles O45: the largest output is 1385 bytes, so that it fits OBUF. -/
theorem b64EncWritesEncoding : Obligations.B64EncWritesEncoding := by
  intro s wrap hi src e
  have hlen : e.length ≤ 2048 := by
    have hsrc : src.length = s.inLen.toNat := length_input
    simp only [e]
    split
    · rw [length_wrap76, length_b64]; omega
    · rw [length_b64]; omega
  exact output_of_produce (encodeCommand_produce (fun src => if wrap then wrap76 (b64 src) else b64 src) hi hlen) hlen

end Sys2Proof.Machine

/-! The standard dialect of base64, decoding, and the laws of R176 (44_base64.md R174 to R176; O46, O47, O48). -/

namespace Sys2Proof.Machine

open Sys2Proof.Reading

variable {s : State} {c0 c1 c2 c3 : Byte} {src t full rest out : List Byte} {strict : Bool} {g n : Nat}

/-! ## Which characters decoding keeps, and when it completes a group (44_base64.md R174) -/

theorem isSome_stdVal_iff : ∀ c : Byte, (stdVal c).isSome = true ↔ c ∈ standardAlphabet := by decide +kernel

theorem significant_iff (c : Byte) : significant c = true ↔ c ∈ standardAlphabet ∨ c = 0x3D#8 := by
  rw [significant, Bool.or_eq_true, isSome_stdVal_iff, beq_iff_eq, padChar]

theorem strict_and_not_all_significant_iff :
    (strict && !t.all significant) = true ↔ strict = true ∧ ∃ c ∈ t, significant c = false := by
  simp

/-- The lengths that are an error whatever the characters are. -/
theorem completeGroups_of_bad
    (h : (t.filter significant).length % 4 = 1 ∨ (strict = true ∧ (t.filter significant).length % 4 ≠ 0)) :
    completeGroups strict (t.filter significant) = none := by
  rw [completeGroups]
  split
  · omega
  · rfl
  · exact if_pos (h.resolve_left ‹_›).1

theorem completeGroups_of_good
    (h : ¬((t.filter significant).length % 4 = 1 ∨ (strict = true ∧ (t.filter significant).length % 4 ≠ 0))) :
    completeGroups strict (t.filter significant) = some (completed t) := by
  rw [not_or] at h
  obtain ⟨h1, h2⟩ := h
  rw [completeGroups, completed]
  split
  · simp [*]
  · exact absurd ‹_› h1
  · next h0 _ =>
    have hpos := Nat.pos_of_ne_zero h0
    rw [if_neg fun hs => h2 ⟨hs, h0⟩, Nat.mod_eq_of_lt (by omega : 4 - (t.filter significant).length % 4 < 4)]
    rfl

theorem length_completed_mod_four (t : List Byte) : (completed t).length % 4 = 0 := by
  simp only [completed, List.length_append, List.length_replicate]
  omega

/-! ## The groups of four (44_base64.md R174) -/

/-- Character `k` of group `g`. -/
def groupAt (full : List Byte) (g k : Nat) : Byte := full.getD (4 * g + k) 0#8

/-- The groups after the first are those of what follows the first four characters. -/
theorem groupAt_succ (c0 c1 c2 c3 : Byte) (rest : List Byte) (g : Nat) :
    groupAt (c0 :: c1 :: c2 :: c3 :: rest) (g + 1) = groupAt rest g :=
  funext fun k => by
    have hindex : 4 * (g + 1) + k = 4 * g + k + 1 + 1 + 1 + 1 := by omega
    rw [groupAt, hindex]
    rfl

theorem groupCount_eq_groupSize (group : Nat → Byte) :
    groupCount (group 0) (group 1) (group 2) (group 3) = groupSize group := by
  simp only [groupCount, groupSize, padChar]
  by_cases h0 : group 0 = 0x3D#8
  · simp [h0]
  by_cases h1 : group 1 = 0x3D#8
  · simp [h1]
  by_cases h2 : group 2 = 0x3D#8 <;> by_cases h3 : group 3 = 0x3D#8 <;> simp [h0, h1, h2, h3]

theorem groupCount_eq_groupSize_zero (c0 c1 c2 c3 : Byte) (rest : List Byte) :
    groupCount c0 c1 c2 c3 = groupSize (groupAt (c0 :: c1 :: c2 :: c3 :: rest) 0) :=
  groupCount_eq_groupSize (groupAt (c0 :: c1 :: c2 :: c3 :: rest) 0)

theorem groupSize_le {group : Nat → Byte} {q : Nat} (h : groupSize group = some q) : q ≤ 3 := by
  unfold groupSize at h
  split at h
  · cases h; decide
  split at h
  · cases h; decide
  split at h
  · cases h; decide
  · cases h

/-- Byte `k` of a group is the one of its value, by number. -/
theorem toNat_getD_unbe24_groupWord {k : Nat} (hk : k < 3) (c0 c1 c2 c3 : Byte) (rest : List Byte) :
    ((unbe24 (groupWord c0 c1 c2 c3)).getD k 0#8).toNat =
      groupValue (groupAt (c0 :: c1 :: c2 :: c3 :: rest) 0) / 2 ^ (16 - 8 * k) % 256 := by
  have hvalue : groupValue (groupAt (c0 :: c1 :: c2 :: c3 :: rest) 0) = (groupWord c0 c1 c2 c3).toNat :=
    (toNat_groupWord c0 c1 c2 c3).symm
  have hbyte : (unbe24 (groupWord c0 c1 c2 c3)).getD k 0#8 = (groupWord c0 c1 c2 c3).extractLsb' (16 - 8 * k) 8 := by
    interval_cases k <;> rfl
  rw [hvalue, hbyte, BitVec.extractLsb'_toNat, Nat.shiftRight_eq_div_pow]

/-- A text of whole groups, at least one, from its first group on. -/
theorem exists_group (h : full.length = 4 * (n + 1)) :
    ∃ c0 c1 c2 c3 rest, full = c0 :: c1 :: c2 :: c3 :: rest ∧ rest.length = 4 * n := by
  match full, h with
  | c0 :: c1 :: c2 :: c3 :: rest, h =>
    refine ⟨c0, c1, c2, c3, rest, rfl, ?_⟩
    simp only [List.length_cons] at h
    omega
  | [], h => simp at h
  | [_], h => simp at h; omega
  | [_, _], h => simp at h; omega
  | [_, _, _], h => simp at h; omega

/-- When the groups are an error: the first by itself, or by being padded with more to follow, or those that follow. -/
theorem decodeGroups_cons_eq_none_iff : decodeGroups (c0 :: c1 :: c2 :: c3 :: rest) = none ↔
    (groupCount c0 c1 c2 c3 = none ∨ (rest ≠ [] ∧ groupCount c0 c1 c2 c3 ≠ some 3)) ∨ decodeGroups rest = none := by
  rw [decodeGroups]
  cases hq : groupCount c0 c1 c2 c3 with
  | none => simp
  | some q =>
    have hle : q ≤ 3 := groupSize_le ((groupCount_eq_groupSize_zero c0 c1 c2 c3 []).symm.trans hq)
    have hlt : q < 3 ↔ q ≠ 3 := by omega
    by_cases hpad : q < 3 ∧ rest ≠ []
    · simp only [if_pos hpad, true_iff]
      exact .inl (.inr ⟨hpad.2, by simpa using hlt.mp hpad.1⟩)
    · simp only [if_neg hpad, Option.map_eq_none_iff]
      rw [hlt] at hpad
      simp only [reduceCtorEq, ne_eq, Option.some.injEq, false_or]
      tauto

/-- What the first group gives: by itself if it is the last one, and else its three bytes. -/
theorem decodeGroups_cons (h : decodeGroups (c0 :: c1 :: c2 :: c3 :: rest) = some out) :
    ∃ q tail, groupCount c0 c1 c2 c3 = some q ∧ (rest = [] ∨ q = 3) ∧ decodeGroups rest = some tail ∧
      out = (unbe24 (groupWord c0 c1 c2 c3)).take q ++ tail := by
  have hgood := Option.ne_none_iff_exists'.mpr ⟨out, h⟩
  rw [ne_eq, decodeGroups_cons_eq_none_iff] at hgood
  push Not at hgood
  obtain ⟨⟨hsome, hpad⟩, -⟩ := hgood
  obtain ⟨q, hq⟩ := Option.ne_none_iff_exists'.mp hsome
  have hlast : rest = [] ∨ q = 3 := by
    by_cases hrest : rest = []
    · exact .inl hrest
    · exact .inr (by simpa [hq] using hpad hrest)
  have hgoOn : ¬(q < 3 ∧ rest ≠ []) := fun ⟨hlt, hrest⟩ => Nat.ne_of_lt hlt (hlast.resolve_left hrest)
  rw [decodeGroups, hq] at h
  simp only [if_neg hgoOn, Option.map_eq_some_iff] at h
  obtain ⟨tail, htail, rfl⟩ := h
  exact ⟨q, tail, hq, hlast, htail, rfl⟩

theorem decodeGroups_nil : decodeGroups [] = some [] := rfl

/-- The groups are an error when one of them is, by itself or by being padded before another. -/
theorem decodeGroups_eq_none_iff (h : full.length = 4 * n) : decodeGroups full = none ↔
    ∃ g < n, groupSize (groupAt full g) = none ∨ (g + 1 < n ∧ groupSize (groupAt full g) ≠ some 3) := by
  induction n generalizing full with
  | zero =>
    obtain rfl : full = [] := List.length_eq_zero_iff.mp h
    simp [decodeGroups_nil]
  | succ n ih =>
    obtain ⟨c0, c1, c2, c3, rest, rfl, hrest⟩ := exists_group h
    have hmore : rest ≠ [] ↔ 0 + 1 < n + 1 := by
      rw [← List.length_pos_iff]; omega
    rw [Nat.exists_lt_succ_left, decodeGroups_cons_eq_none_iff, groupCount_eq_groupSize_zero c0 c1 c2 c3 rest, hmore,
      ih hrest]
    simp only [groupAt_succ, Nat.add_lt_add_iff_right]

/-- Three bytes for each group, and for the last one as many as it holds. -/
theorem length_decodeGroups_eq {q : Nat} (h : full.length = 4 * (n + 1)) (hd : decodeGroups full = some out)
    (hq : groupSize (groupAt full n) = some q) : out.length = 3 * n + q := by
  induction n generalizing full out with
  | zero =>
    obtain ⟨c0, c1, c2, c3, rest, rfl, hrest⟩ := exists_group h
    obtain rfl : rest = [] := List.length_eq_zero_iff.mp hrest
    obtain ⟨q', tail, hq', -, htail, rfl⟩ := decodeGroups_cons hd
    cases htail
    rw [groupCount_eq_groupSize_zero c0 c1 c2 c3 [], hq] at hq'
    cases hq'
    have := groupSize_le hq
    simp [unbe24]; omega
  | succ n ih =>
    obtain ⟨c0, c1, c2, c3, rest, rfl, hrest⟩ := exists_group h
    obtain ⟨q', tail, -, hlast, htail, rfl⟩ := decodeGroups_cons hd
    obtain rfl : q' = 3 := hlast.resolve_left fun hnil => by simp [hnil] at hrest
    have := ih hrest htail hq
    simp [unbe24]; omega

/-- Byte `k` of what group `g` gives. -/
theorem getD_decodeGroups {k : Nat} (h : full.length = 4 * n) (hd : decodeGroups full = some out) (hg : g < n)
    (hk : k < 3) (hout : 3 * g + k < out.length) :
    (out.getD (3 * g + k) 0#8).toNat = groupValue (groupAt full g) / 2 ^ (16 - 8 * k) % 256 := by
  induction n generalizing full out g with
  | zero => omega
  | succ n ih =>
    obtain ⟨c0, c1, c2, c3, rest, rfl, hrest⟩ := exists_group h
    obtain ⟨q, tail, hq, hlast, htail, rfl⟩ := decodeGroups_cons hd
    cases g with
    | zero =>
      have hfirst : k < ((unbe24 (groupWord c0 c1 c2 c3)).take q).length := by
        rcases hlast with rfl | rfl
        · cases htail
          simpa using hout
        · exact hk
      rw [Nat.mul_zero, Nat.zero_add, List.getD_append _ _ _ _ hfirst, ← toNat_getD_unbe24_groupWord hk,
        List.getD_eq_getElem _ _ hfirst, List.getElem_take, ← List.getD_eq_getElem _ 0#8]
    | succ g =>
      obtain rfl : q = 3 := hlast.resolve_left fun hnil => by subst hnil; simp at hrest; omega
      have hlen : ((unbe24 (groupWord c0 c1 c2 c3)).take 3).length = 3 := rfl
      rw [List.length_append, hlen] at hout
      rw [List.getD_append_right _ _ _ _ (by omega), hlen, groupAt_succ, ← ih hrest htail (by omega) (by omega)]
      congr 2
      omega

/-! ## Decoding by index (44_base64.md R174) -/

/-- What is an error before the groups are looked at. -/
def badText (t : List Byte) (strict : Bool) : Prop :=
  (strict = true ∧ ∃ c ∈ t, significant c = false) ∨ (t.filter significant).length % 4 = 1 ∨
    (strict = true ∧ (t.filter significant).length % 4 ≠ 0)

theorem b64dec_of_badText (h : badText t strict) : b64dec t strict = none := by
  rw [b64dec]
  rcases h with h | h
  · exact if_pos (strict_and_not_all_significant_iff.mpr h)
  · rw [completeGroups_of_bad h]
    exact ite_self _

theorem b64dec_of_not_badText (h : ¬badText t strict) : b64dec t strict = decodeGroups (completed t) := by
  obtain ⟨hall, hlen⟩ := not_or.mp h
  rw [b64dec, if_neg (strict_and_not_all_significant_iff.not.mpr hall), completeGroups_of_good hlen]
  rfl

/-- Settles O46: an error of the text, or one of its groups; else the groups give the bytes. -/
theorem standardDecodingByIndex : Obligations.StandardDecodingByIndex := by
  refine ⟨stdVal_eq_some_iff, significant_iff, fun t strict => ?_⟩
  intro sig full group bad
  have hfull : full.length = 4 * (full.length / 4) := by
    have : full.length % 4 = 0 := length_completed_mod_four t
    omega
  have hbad : bad ↔ badText t strict ∨ decodeGroups full = none := by
    rw [decodeGroups_eq_none_iff hfull, badText, or_assoc, or_assoc]
    rfl
  by_cases htext : badText t strict
  · rw [b64dec_of_badText htext]
    exact ⟨iff_of_true rfl (hbad.mpr (.inl htext)), fun _ h => nomatch h⟩
  · rw [b64dec_of_not_badText htext]
    refine ⟨(hbad.trans (or_iff_right htext)).symm, fun out hout => ⟨fun hnil => ?_, fun q hne hq => ?_, ?_⟩⟩
    · rw [show completed t = [] from hnil] at hout
      exact (Option.some.inj hout).symm
    · have hpos : 0 < full.length := List.length_pos_iff.mpr hne
      have hlast : full.length = 4 * (full.length / 4 - 1 + 1) := by omega
      exact length_decodeGroups_eq hlast hout hq
    · exact fun g hg k hk hlt => getD_decodeGroups hfull hout hg hk hlt

/-- B64_DEC with INLEN in range (44_base64.md R175). -/
theorem exec_b64Dec (strict : Bool) (hi : s.inLen.toNat ≤ 1024) : exec (.b64Dec strict) s =
    (b64dec s.input strict).elim (raiseNoOutput .b64Format s) fun out => complete (s.putOutput out) := by
  simp only [exec, execB64Dec, inLenBad_of_le hi]
  cases b64dec s.input strict <;> rfl

/-- Settles O47: at most three bytes for four characters of the input fit OBUF. -/
theorem b64DecWritesDecoding : Obligations.B64DecWritesDecoding := by
  intro s strict hi src
  have hexec := exec_b64Dec strict hi
  refine ⟨fun d hd => ?_, fun hnone => ?_⟩
  · have hlen : d.length ≤ 2048 := by
      have h := length_b64dec hd
      have hsrc : src.length = s.inLen.toNat := length_input
      omega
    rw [show b64dec s.input strict = some d from hd] at hexec
    exact output_of_produce hexec hlen
  · rw [show b64dec s.input strict = none from hnone] at hexec
    exact hexec

/-! ## The laws of the standard dialect (44_base64.md R176) -/

@[simp] theorem groupCount_of_chars (v0 v1 v2 v3 : BitVec 6) :
    groupCount (stdChar v0) (stdChar v1) (stdChar v2) (stdChar v3) = some 3 := by
  simp [groupCount]

@[simp] theorem groupCount_of_one_pad (v0 v1 v2 : BitVec 6) :
    groupCount (stdChar v0) (stdChar v1) (stdChar v2) padChar = some 2 := by
  simp [groupCount]

@[simp] theorem groupCount_of_two_pads (v0 v1 : BitVec 6) :
    groupCount (stdChar v0) (stdChar v1) padChar padChar = some 1 := by
  simp [groupCount]

/-- '=' in the last place stands for the six bits that are 0 when the third byte is missing. -/
theorem groupWord_one_pad (t0 t1 : Byte) :
    groupWord (stdChar ((be24 t0 t1 0#8).extractLsb' 18 6)) (stdChar ((be24 t0 t1 0#8).extractLsb' 12 6))
      (stdChar ((be24 t0 t1 0#8).extractLsb' 6 6)) padChar = be24 t0 t1 0#8 := by
  conv_rhs => rw [← groupWord_stdQuad (be24 t0 t1 0#8)]
  simp only [groupWord, valOrZero_stdChar, valOrZero_padChar, be24_sixBits_zero]

/-- '=' in the last two places stands for the bits that are 0 when two bytes are missing. -/
theorem groupWord_two_pads (t0 : Byte) :
    groupWord (stdChar ((be24 t0 0#8 0#8).extractLsb' 18 6)) (stdChar ((be24 t0 0#8 0#8).extractLsb' 12 6))
      padChar padChar = be24 t0 0#8 0#8 := by
  conv_rhs => rw [← groupWord_one_pad t0 0#8]
  simp only [groupWord, valOrZero_stdChar, valOrZero_padChar, be24_sixBits_zero']

theorem decodeGroups_b64 (src : List Byte) : decodeGroups (b64 src) = some src := by
  induction src using b64.induct with
  | case1 t0 t1 t2 rest ih =>
    simp [b64, stdQuad, decodeGroups, groupWord_stdQuad, unbe24_be24, ih]
  | case2 t0 t1 => simp [b64, stdQuad, decodeGroups, groupWord_one_pad, unbe24_be24]
  | case3 t0 => simp [b64, stdQuad, decodeGroups, groupWord_two_pads, unbe24_be24]
  | case4 => rfl

/-- An encoding has none but the characters of the alphabet and '='. -/
theorem significant_of_mem_b64 (src : List Byte) : ∀ c ∈ b64 src, significant c = true := by
  induction src using b64.induct with
  | case1 t0 t1 t2 rest ih => simpa [b64, stdQuad] using ih
  | case2 => simp [b64, stdQuad]
  | case3 => simp [b64, stdQuad]
  | case4 => simp [b64]

/-- A text whose significant characters are those of an encoding decodes to what was encoded, unless STRICT forbids
others that it has. -/
theorem b64dec_of_filter_eq (hsig : t.filter significant = b64 src)
    (hall : strict = true → ∀ c ∈ t, significant c = true) : b64dec t strict = some src := by
  have hlen : (b64 src).length % 4 = 0 := by rw [length_b64]; omega
  have hgood : ¬badText t strict := by
    rintro (⟨hs, c, hc, hbad⟩ | h)
    · simp [hall hs c hc] at hbad
    · rw [hsig] at h; omega
  have hfull : completed t = b64 src := by simp [completed, hsig]
  rw [b64dec_of_not_badText hgood, hfull, decodeGroups_b64]

/-- Settles O48: decoding keeps what was encoded and no line feed, which STRICT does not allow. -/
theorem standardRoundTrip : Obligations.StandardRoundTrip := by
  intro src
  have hsig : (b64 src).filter significant = b64 src := List.filter_eq_self.mpr (significant_of_mem_b64 src)
  have hwrap : (wrap76 (b64 src)).filter significant = b64 src :=
    (filter_wrapFrom significant significant_lineFeed _ _).trans hsig
  refine ⟨b64dec_of_filter_eq hsig nofun, b64dec_of_filter_eq hsig fun _ => significant_of_mem_b64 src,
    b64dec_of_filter_eq hwrap nofun, fun hlong => b64dec_of_badText (.inl ⟨rfl, lineFeed, ?_, significant_lineFeed⟩)⟩
  exact List.mem_of_getElem? (getElem?_wrap76_lineFeed (j := 1) (Nat.le_refl 1) (by omega))

end Sys2Proof.Machine

/-! The legacy dialect of base64 (44_base64.md R180 to R185; O49, O50, O51). -/

namespace Sys2Proof.Machine

open Sys2Proof.Reading

variable {s : State} {src t : List Byte} {c : Byte}

/-! ## The alphabet (44_base64.md R180) -/

theorem getElem?_legacyAlphabet : ∀ v : BitVec 6, legacyAlphabet[v.toNat]? = some (legChar v) := by decide +kernel

theorem toNat_legVal : ∀ c : Byte, (legVal c).toNat = legacyPosition c := by decide +kernel

theorem legChar_mem_legacyAlphabet (v : BitVec 6) : legChar v ∈ legacyAlphabet :=
  List.mem_of_getElem? (getElem?_legacyAlphabet v)

/-! ## Encoding (44_base64.md R181, R182) -/

/-- The characters of a word, one by one. -/
theorem getElem?_legWord (w : Word) {k : Nat} (hk : k < 6) :
    (legWord w)[k]? = legacyAlphabet[w.toNat / 2 ^ (6 * k) % 64]? := by
  have hv : w.toNat / 2 ^ (6 * k) % 64 = ((w >>> (6 * k)).setWidth 6).toNat := by
    simp [Nat.shiftRight_eq_div_pow]
  rw [hv, getElem?_legacyAlphabet]
  simp [legWord, hk]

/-- Character `k` of block `j` among the characters of blocks. -/
theorem getElem?_flatMap_legEncBlock {bs : List Block} {j k : Nat} {b : Block} (hb : bs[j]? = some b) (hk : k < 12) :
    (bs.flatMap legEncBlock)[12 * j + k]? = (legEncBlock b)[k]? := by
  induction bs generalizing j with
  | nil => simp at hb
  | cons c bs ih =>
    rw [List.flatMap_cons]
    cases j with
    | zero =>
      obtain rfl : c = b := by simpa using hb
      rw [Nat.mul_zero, Nat.zero_add, List.getElem?_append_left (by simpa using hk)]
    | succ j =>
      have hindex : 12 * (j + 1) + k - (legEncBlock c).length = 12 * j + k := by
        rw [length_legEncBlock]; omega
      rw [List.getElem?_append_right (by rw [length_legEncBlock]; omega), hindex]
      exact ih (by simpa using hb)

/-- Settles O49: each block of the padded input gives its twelve characters, at most 1536 in all. -/
theorem lb64EncWritesGroups : Obligations.Lb64EncWritesGroups := by
  intro s hi
  have hlen : (legEnc s.input).length = 12 * (pad8 s.inLen.toNat / 8) := by rw [length_legEnc, length_input]
  have hfit : (legEnc s.input).length ≤ 2048 := by
    have := pad8_inLen_le hi
    omega
  obtain ⟨t, he, hframe, hout⟩ := output_of_produce (i := .lb64Enc) (encodeCommand_produce legEnc hi hfit) hfit
  rw [hlen] at hframe hout
  refine ⟨t, he, hframe, fun j hj k hk => ?_⟩
  have hblock : (blocks (zeroPad s.input))[j]? = some (blockAt (inputAt s) (8 * j)) :=
    getElem?_blocks_zeroPad (inputAt_eq_getD s) (by rwa [length_input])
  have hchar {l : Nat} (hl : l < 12) :
      (legEncBlock (blockAt (inputAt s) (8 * j)))[l]? = some (outputAt t (12 * j + l)) := by
    have hlt : 12 * j + l < (legEnc s.input).length := by omega
    rw [hout _ (by omega), padded, List.getD_eq_getElem _ _ hlt, ← List.getElem?_eq_getElem hlt]
    exact (getElem?_flatMap_legEncBlock hblock hl).symm
  rw [← getElem?_legWord _ hk, ← getElem?_legWord _ hk, Nat.add_assoc, ← hchar (by omega), ← hchar (by omega),
    legEncBlock, List.getElem?_append_left (by rwa [length_legWord]), List.getElem?_append_right (by rw [length_legWord]; omega),
    length_legWord, Nat.add_sub_cancel_left]
  exact ⟨rfl, rfl⟩

/-! ## Decoding (44_base64.md R183, R184) -/

/-- What of the input is decoded: the values of the bytes before the first zero byte. -/
def legValues (t : List Byte) : List (BitVec 6) := (t.takeWhile (fun c => c != 0x00#8)).map legVal

/-- The word of the six values from index `k` on, values beyond the last being 0. -/
def legWordAt (v : List (BitVec 6)) (k : Nat) : Word :=
  legWordOf (v.getD k 0#6) (v.getD (k + 1) 0#6) (v.getD (k + 2) 0#6) (v.getD (k + 3) 0#6) (v.getD (k + 4) 0#6)
    (v.getD (k + 5) 0#6)

theorem getElem?_legWords {v : List (BitVec 6)} {k : Nat} (h : 6 * k + 6 ≤ v.length) :
    (legWords v)[k]? = some (legWordAt v (6 * k)) := by
  induction v using legWords.induct generalizing k with
  | case1 v0 v1 v2 v3 v4 v5 rest ih =>
    rw [legWords]
    cases k with
    | zero => rfl
    | succ k =>
      simp only [List.length_cons] at h
      rw [List.getElem?_cons_succ, ih (by omega)]
      rfl
  | case2 v hshort =>
    match v, h, hshort with
    | _ :: _ :: _ :: _ :: _ :: _ :: _, _, hshort => exact absurd rfl (hshort _ _ _ _ _ _ _)

theorem getElem?_legBlocks {ws : List Word} {j : Nat} {r l : Word} (hr : ws[2 * j]? = some r)
    (hl : ws[2 * j + 1]? = some l) : (legBlocks ws)[j]? = some { l := l, r := r } := by
  induction ws using legBlocks.induct generalizing j with
  | case1 r' l' rest ih =>
    rw [legBlocks]
    cases j with
    | zero =>
      cases hr; cases hl
      rfl
    | succ j => exact ih hr hl
  | case2 ws hshort =>
    match ws, hl, hshort with
    | [_], hl, _ => simp at hl
    | _ :: _ :: _, _, hshort => exact absurd rfl (hshort _ _ _)

/-- The values that complete a group are 0, as those beyond the end count anyway. -/
theorem getD_pad12 (v : List (BitVec 6)) (k : Nat) : (pad12 v).getD k 0#6 = v.getD k 0#6 := by
  simp only [pad12, List.getD_eq_getElem?_getD, List.getElem?_append, List.getElem?_replicate]
  split
  · rfl
  · rw [List.getElem?_eq_none (Nat.le_of_not_lt ‹_›)]
    split <;> rfl

theorem legWordAt_pad12 (v : List (BitVec 6)) (k : Nat) : legWordAt (pad12 v) k = legWordAt v k := by
  simp only [legWordAt, getD_pad12]

/-- The blocks that the input gives, `g` of them for the groups of 12 (44_base64.md R183). -/
theorem getElem?_legBlocks_legValues {g : Nat} (hg : g < ((legValues t).length + 11) / 12) :
    (legBlocks (legWords (pad12 (legValues t))))[g]? =
      some { l := legWordAt (legValues t) (12 * g + 6), r := legWordAt (legValues t) (12 * g) } := by
  have hlen := length_pad12 (legValues t)
  have hword (k : Nat) (hk : k < 2) :
      (legWords (pad12 (legValues t)))[2 * g + k]? = some (legWordAt (legValues t) (12 * g + 6 * k)) := by
    have hindex : 6 * (2 * g + k) = 12 * g + 6 * k := by omega
    rw [getElem?_legWords (by omega), legWordAt_pad12, hindex]
  exact getElem?_legBlocks (hword 0 (by decide)) (hword 1 (by decide))

theorem length_legValues (t : List Byte) : (legValues t).length = (t.takeWhile (fun c => c != 0x00#8)).length :=
  List.length_map _

/-- The values by index: those of the bytes before the first zero byte. -/
theorem toNat_getD_legValues (t : List Byte) (k : Nat) : ((legValues t).getD k 0#6).toNat =
    if k < (t.takeWhile (fun c => c != 0x00#8)).length then legacyPosition (padded t k) else 0 := by
  have hprefix := List.takeWhile_prefix (l := t) (fun c => c != 0x00#8)
  split
  · next hk =>
    rw [List.getD_eq_getElem _ _ (by rwa [length_legValues]), padded,
      List.getD_eq_getElem _ _ (hk.trans_le hprefix.length_le), ← hprefix.getElem hk, ← toNat_legVal]
    simp [legValues]
  · next hk =>
    rw [List.getD_eq_default _ _ (by rw [length_legValues]; omega)]
    rfl

/-- Settles O50: at most 688 bytes, and the words of a group by their six values. -/
theorem lb64DecReadsGroups : Obligations.Lb64DecReadsGroups := by
  intro s hi src z v word
  have hlen : (legDec s.input).length = 8 * ((z + 11) / 12) := length_legDec s.input
  have hfit : (legDec s.input).length ≤ 2048 := by
    have := length_legDec_le s.input
    rw [length_input] at this
    omega
  have he : exec .lb64Dec s = .next (s.produce (legDec s.input) s.chain) :=
    if_neg (by simp [inLenBad_of_le hi])
  have hframe := outputFrame_produce (s := s) (c := s.chain) hfit
  rw [hlen] at hframe
  have hword (k : Nat) : (legWordAt (legValues s.input) k).toNat = word k := by
    simp only [legWordAt, toNat_legWordOf, toNat_getD_legValues]
    rfl
  refine ⟨_, he, hframe, fun g hg => ?_⟩
  have hvalues : (legValues s.input).length = z := length_legValues s.input
  have hblock := getElem?_legBlocks_legValues (t := s.input) (g := g) (by rwa [hvalues])
  obtain ⟨hlt, -⟩ := List.getElem?_eq_some_iff.mp hblock
  have hout : _ = some (blockAt (outputAt (s.produce (legDec s.input) s.chain)) (8 * g)) :=
    getElem?_eq_blockAt_outputAt hlt
  rw [← Option.some.inj (hblock.symm.trans hout)]
  exact ⟨hword _, hword _⟩

/-! ## The laws of the legacy dialect (44_base64.md R185) -/

/-- The values of a word's characters make the word again. -/
theorem legWords_legWord_append (w : Word) (rest : List Byte) :
    legWords ((legWord w ++ rest).map legVal) = w :: legWords (rest.map legVal) := by
  conv_rhs => rw [← legWordOf_fields w]
  simp [legWord, List.range_succ, legWords]

theorem legBlocks_legWords_flatMap (bs : List Block) :
    legBlocks (legWords ((bs.flatMap legEncBlock).map legVal)) = bs := by
  induction bs with
  | nil => rfl
  | cons b bs ih =>
    rw [List.flatMap_cons, legEncBlock, List.append_assoc, legWords_legWord_append, legWords_legWord_append,
      legBlocks, ih]

/-- An encoding has none but the characters of the alphabet. -/
theorem exists_legChar_of_mem_legEnc (h : c ∈ legEnc src) : ∃ v, c = legChar v := by
  obtain ⟨b, -, hb⟩ := List.mem_flatMap.mp h
  have hword {w : Word} (hw : c ∈ legWord w) : ∃ v, c = legChar v := by
    obtain ⟨k, -, rfl⟩ := List.mem_map.mp hw
    exact ⟨_, rfl⟩
  exact (List.mem_append.mp hb).elim hword hword

theorem ne_zero_of_mem_legEnc (h : c ∈ legEnc src) : c ≠ 0x00#8 := by
  obtain ⟨v, rfl⟩ := exists_legChar_of_mem_legEnc h
  exact legChar_ne_zero v

theorem pad12_of_dvd {v : List (BitVec 6)} (h : 12 ∣ v.length) : pad12 v = v := by
  simp [pad12, Nat.mod_eq_zero_of_dvd h]

/-- An encoding has no zero byte, and whole groups of 12, so that decoding stops nowhere and completes nothing. -/
theorem legDec_legEnc (src : List Byte) : legDec (legEnc src) = zeroPad src := by
  have hall : (legEnc src).takeWhile (fun c => c != 0x00#8) = legEnc src :=
    List.takeWhile_eq_self_iff.mpr fun c hc => by simpa using ne_zero_of_mem_legEnc hc
  rw [legDec, hall, pad12_of_dvd (by simp), legEnc, legBlocks_legWords_flatMap,
    bytesOf_blocks (by rw [length_zeroPad]; exact pad8_dvd _)]

/-- Settles O51: the tables by evaluation, and the round trip block by block. -/
theorem legacyRoundTrip : Obligations.LegacyRoundTrip := by
  refine ⟨getElem?_legacyAlphabet, toNat_legVal, fun src => ⟨legDec_legEnc src, fun c hc => ?_⟩⟩
  obtain ⟨v, rfl⟩ := exists_legChar_of_mem_legEnc hc
  exact ⟨legChar_ne_zero v, legChar_mem_legacyAlphabet v⟩

end Sys2Proof.Machine

/-! How a command ends: its result code (O52), and what an error writes (O53) (60_exceptions.md R200 to R204). -/

namespace Sys2Proof.Machine

open Sys2Proof.Reading

variable {s t : State} {i : Instr} {code code' : ResultCode} {o o' : Host.Outcome State Fault Refusal}

/-! ## Completion with a code -/

/-- The outcome is the end of a command that reports `code`. -/
def CompletesWith (o : Host.Outcome State Fault Refusal) (code : ResultCode) : Prop :=
  ∃ t : State, o = .next (t.finish code)

theorem completesWith_complete (s : State) : CompletesWith (complete s) .ok := ⟨s, rfl⟩

theorem completesWith_raise (code : ResultCode) (s : State) : CompletesWith (raise code s) code := ⟨s, rfl⟩

theorem completesWith_raiseNoOutput (code : ResultCode) (s : State) : CompletesWith (raiseNoOutput code s) code :=
  ⟨{ s with outLen := 0#12 }, rfl⟩

/-- A check of a command against the condition that the spec gives for it. -/
theorem CompletesWith.ite {p q : Prop} [Decidable p] [Decidable q] (hpq : p ↔ q) (h : CompletesWith o code)
    (h' : ¬q → CompletesWith o' code') : CompletesWith (if p then o else o') (if q then code else code') := by
  by_cases hq : q
  · rwa [if_pos (hpq.mpr hq), if_pos hq]
  · rw [if_neg (mt hpq.mp hq), if_neg hq]
    exact h' hq

/-- The check of INLEN, which the eight buffer commands share (60_exceptions.md R203). -/
theorem completesWith_inLenCheck (h : s.inLen.toNat ≤ 1024 → CompletesWith o code) :
    CompletesWith (if s.inLenBad then raiseNoOutput .inLen s else o)
      (if s.inLen.toNat > 1024 then .inLen else code) :=
  .ite inLenBad_iff (completesWith_raiseNoOutput .inLen s) fun hi => h (Nat.le_of_not_lt hi)

/-! ## The commands -/

/-- Without a key NOKEY comes before INLEN (60_exceptions.md R202, R204). -/
theorem completesWith_withKeyAndInput (u : State) : CompletesWith (withKeyAndInput s (complete u))
    (if !s.keyValid then .noKey else if s.inLen.toNat > 1024 then .inLen else .ok) :=
  .ite Iff.rfl (completesWith_raiseNoOutput .noKey s) fun _ =>
    completesWith_inLenCheck fun _ => completesWith_complete u

theorem completesWith_execKeyInit (cap56 : Bool) : CompletesWith (execKeyInit cap56 s)
    (if s.keyLen.toNat = 0 ∨ s.keyLen.toNat > 80 then .keyLen else .ok) :=
  .ite Iff.rfl (completesWith_raise .keyLen s) fun _ => completesWith_complete _

theorem completesWith_execXfer : CompletesWith (execXfer s) (if s.outLen.toNat > 1024 then .overflow else .ok) :=
  .ite Iff.rfl (completesWith_raise .overflow s) fun _ => completesWith_complete _

theorem completesWith_blockCommand (f : Schedule → Block → Block) :
    CompletesWith (blockCommand f s) (if !s.keyValid then .noKey else .ok) := by
  cases hk : s.keyValid with
  | false => exact blockCommand_noKey f hk ▸ completesWith_raise .noKey s
  | true => exact blockCommand_keyed f hk ▸ completesWith_complete _

/-- An encoding command raises no OVERFLOW if what it makes of 1024 bytes at most fits OBUF. -/
theorem completesWith_encodeCommand {f : List Byte → List Byte}
    (hf : ∀ src, src.length ≤ 1024 → (f src).length ≤ 2048) :
    CompletesWith (encodeCommand f s) (if s.inLen.toNat > 1024 then .inLen else .ok) :=
  completesWith_inLenCheck fun hi =>
    ⟨s.putOutput (f s.input), if_neg (Nat.not_lt.mpr (hf s.input (by rwa [length_input])))⟩

/-- 44_base64.md R172: of 1024 bytes 1368 characters and 17 line feeds. -/
theorem length_b64_wrapped_le (wrap : Bool) (src : List Byte) (h : src.length ≤ 1024) :
    (if wrap then wrap76 (b64 src) else b64 src).length ≤ 2048 := by
  split
  · rw [length_wrap76, length_b64]; omega
  · rw [length_b64]; omega

/-- 44_base64.md R182: of 1024 bytes 1536 characters. -/
theorem length_legEnc_le (src : List Byte) (h : src.length ≤ 1024) : (legEnc src).length ≤ 2048 := by
  have := pad8_le h (by decide)
  rw [length_legEnc]; omega

/-- B64FORMAT is raised where there is no decoding (44_base64.md R175). -/
theorem completesWith_execB64Dec (strict : Bool) : CompletesWith (execB64Dec strict s)
    (if s.inLen.toNat > 1024 then .inLen else if (b64dec s.input strict).isNone then .b64Format else .ok) := by
  refine completesWith_inLenCheck fun _ => ?_
  cases b64dec s.input strict with
  | none => exact completesWith_raiseNoOutput .b64Format s
  | some out => exact completesWith_complete (s.putOutput out)

/-- 60_exceptions.md R204: each command makes its checks in the order of the errors. -/
theorem exec_completesWith_firstError (i : Instr) (s : State) : CompletesWith (exec i s) (firstError i s) := by
  cases i with
  | nop => exact completesWith_complete s
  | keyInit cap56 => exact completesWith_execKeyInit cap56
  | encBlk => exact completesWith_blockCommand encipher
  | decBlk => exact completesWith_blockCommand decipher
  | ecbEnc => exact completesWith_withKeyAndInput _
  | ecbDec => exact completesWith_withKeyAndInput _
  | cbcEnc chs piv => exact completesWith_withKeyAndInput _
  | cbcDec chs drop => exact completesWith_withKeyAndInput _
  | ivGen => exact completesWith_complete _
  | b64Enc wrap => exact completesWith_encodeCommand (length_b64_wrapped_le wrap)
  | b64Dec strict => exact completesWith_execB64Dec strict
  | lb64Enc => exact completesWith_encodeCommand length_legEnc_le
  | lb64Dec => exact completesWith_inLenCheck fun _ => completesWith_complete _
  | xfer => exact completesWith_execXfer

/-- Settles O52: the end of a command clears BUSY and reports the code. -/
theorem resultIsTheFirstError : Obligations.ResultIsTheFirstError := fun i s =>
  have ⟨t, h⟩ := exec_completesWith_firstError i s
  ⟨t.finish (firstError i s), h, rfl, rfl⟩

/-! ## What an error writes -/

/-- 60_exceptions.md R200: before RESULT and BUSY an error writes OUTLEN at most. -/
theorem Effect.eq_of_error (h : Effect s i code t) (hc : code ≠ .ok) :
    t = { s with outLen := if writesOutput i then 0#12 else s.outLen } := by
  cases h with
  | failed hi => rw [hi]; rfl
  | noOutput hi => rw [hi]; rfl
  | _ => exact absurd rfl hc

/-- Settles O53: the end of a command writes RESULT and BUSY, and an effect with an error is known. -/
theorem errorsWriteOnlyTheResult : Obligations.ErrorsWriteOnlyTheResult := by
  intro i s t h hne
  obtain ⟨u, code, rfl, he⟩ := effect_of_exec h
  rw [he.eq_of_error hne]
  rfl

end Sys2Proof.Machine

/-! Reset, and what the host may and may not do while a command is in flight (70_reset_and_hazards.md: O7, O17 to O20,
O22). -/

namespace Sys2Proof.Machine

variable {s t : State} {e : HostEvent} {width : Width} {off : BitVec 12} {v w : Word}

/-! ## Accesses while BUSY = 1 (R232, R233) -/

/-- 10_state.md R23: bit 3 of a word, by number. -/
theorem getElem_three_eq_decide (v : Word) : v[3] = decide (v.toNat / 8 % 2 = 1) := by
  rw [BitVec.getElem_eq_testBit_toNat, Nat.testBit_eq_decide_div_mod_eq]

theorem writeStatus_eq_ite (s : State) (v : Word) :
    s.writeStatus v = { s with busyErr := if v.toNat / 8 % 2 = 1 then false else s.busyErr } := by
  rw [State.writeStatus, getElem_three_eq_decide]
  split <;> simp [*]

/-- R232: a write that waits for BUSY, as any write to STATUS does, has its effect. -/
theorem serveWrite_of_waits (h : s.busy = true → off = statusOff) :
    s.serveWrite width off v = (s.writeValue width off v).reply (.written width off v) := by
  refine if_neg fun hdropped => ?_
  obtain ⟨hb, ho⟩ : s.busy = true ∧ off ≠ statusOff := by simpa using hdropped
  exact ho (h hb)

/-- R233: a read that waits for BUSY, as any read of ID or STATUS does, answers the value there. -/
theorem serveRead_of_waits (h : s.busy = true → off = idOff ∨ off = statusOff) :
    s.serveRead width off = s.reply (.data width off (s.readValue width off)) := by
  refine if_neg fun hfree => ?_
  obtain ⟨⟨hb, hid⟩, hstatus⟩ : (s.busy = true ∧ off ≠ idOff) ∧ off ≠ statusOff := by simpa using hfree
  exact (h hb).elim hid hstatus

/-- R233: any other read answers a free value. -/
theorem serveRead_busy (hb : s.busy = true) (hid : off ≠ idOff) (hstatus : off ≠ statusOff) :
    s.serveRead width off =
      { s with draws := s.draws + 1 }.reply (.data width off (truncateTo width (Config.busyRead s.draws))) :=
  if_pos (by simp [hb, hid, hstatus])

/-- Settles O17: a dropped write, an illegal one, and the write to STATUS, which BUSY does not stop. -/
theorem writesWhileBusyDropped : Obligations.WritesWhileBusyDropped := by
  refine fun s width off v => ⟨fun hb hl ho => serve_write_busy hb hl ho, serve_write_illegal, ?_⟩
  have hserve : s.serveWrite .w32 statusOff v = (s.writeStatus v).reply (.written .w32 statusOff v) :=
    serveWrite_of_waits fun _ => rfl
  rw [writeStatus_eq_ite] at hserve
  exact (serve_write_legal rfl).trans (congrArg Host.Outcome.next hserve)

/-- Settles O19: ID and STATUS are read as they are, any other offset draws a free value. -/
theorem readsWhileBusy : Obligations.ReadsWhileBusy := by
  refine fun s hb => ⟨?_, ?_, fun width off hl hid hstatus => ?_⟩
  · exact (serve_read_legal rfl).trans (congrArg Host.Outcome.next (serveRead_of_waits fun _ => .inl rfl))
  · exact (serve_read_legal rfl).trans (congrArg Host.Outcome.next (serveRead_of_waits fun _ => .inr rfl))
  · exact ⟨_, (serve_read_legal hl).trans (congrArg Host.Outcome.next (serveRead_busy hb hid hstatus))⟩

/-! ## BUSYERR (R232) -/

/-- Of the registers only STATUS reaches BUSYERR. -/
theorem writeRegister_busyErr (ho : off ≠ statusOff) : (s.writeRegister off.toNat v).busyErr = s.busyErr := by
  rcases writeRegister_cases s off v ho with ⟨-, h⟩ | ⟨-, h⟩ | ⟨-, h⟩ | ⟨_, _, _, _, _, h⟩ <;> simp [h]

/-- 10_state.md R23: what clears BUSYERR is a reset or a 1 written to bit 3 of STATUS. -/
theorem Served.clears_of_busyErr_changed (h : Served s e t) (hne : t.busyErr ≠ s.busyErr) (ht : t.busyErr = false) :
    e = .reset ∨ ∃ v : Word, e = .write .w32 statusOff v ∧ v.toNat / 8 % 2 = 1 := by
  cases h with
  | dropped => exact nomatch ht
  | status v =>
    refine .inr ⟨v, rfl, ?_⟩
    by_contra hbit
    exact hne (by simp [getElem_three_eq_decide, hbit])
  | register off v _ ho => exact absurd (writeRegister_busyErr ho) hne
  | reset => exact .inl rfl
  | _ => exact absurd rfl hne

/-- R237(a): the only event that sets BUSYERR is a write that does not wait for BUSY. -/
theorem Served.busyErr_of_waits (h : Served s e t) (hwaits : waitsForBusy e s) (hs : s.busyErr = false) :
    t.busyErr = false := by
  cases h with
  | dropped _ _ _ hb ho => exact absurd (hwaits hb) ho
  | status => simp [hs]
  | register off v _ ho => exact (writeRegister_busyErr ho).trans hs
  | reset => rfl
  | _ => exact hs

/-- Settles O18: no command and no idle step reaches BUSYERR, so it is an event that clears it. -/
theorem busyErrStaysUntilCleared : Obligations.BusyErrStaysUntilCleared := by
  intro s t h hs ht
  have hne : t.busyErr ≠ s.busyErr := by simp [hs, ht]
  rcases step_sources h with ⟨w, i, code, u, -, -, -, he, rfl⟩ | rfl | ⟨n, rfl⟩ | ⟨n, e, rest, hp, he⟩
  · exact absurd he.busyErr_unchanged hne
  · exact absurd rfl hne
  · exact absurd rfl hne
  · simpa [hp, statusOff] using he.clears_of_busyErr_changed hne ht

/-! ## A host that waits (R237(a)) -/

/-- Unless the core performs a command, a step serves the oldest event and takes one from the latency of a command in
flight. -/
theorem step_eq_serve {rest : List HostEvent} (hp : s.pending = e :: rest) (hwait : s.busy = true → s.wait ≠ 0) :
    step s = serve e { s with wait := if s.busy then s.wait - 1 else s.wait, pending := rest } := by
  obtain ⟨served, servedWaiting, -⟩ := stepServesOutsideOtherwise
  cases hb : s.busy with
  | false => exact served s e rest hb hp
  | true =>
    obtain ⟨w, hl⟩ := Option.isSome_iff_exists.mp hb
    obtain ⟨n, hw⟩ := Nat.exists_eq_succ_of_ne_zero (hwait hb)
    rw [hw]
    exact servedWaiting s w n e rest hl hw hp

/-- The answers already given are no part of the window. -/
theorem writeValue_replies : (s.writeValue width off v).replies = s.replies := by
  have hreg (a : Nat) : (s.writeRegister a v).replies = s.replies := by
    unfold State.writeRegister
    split <;> rfl
  unfold State.writeValue
  dsimp only
  split
  · exact hreg _
  · split <;> rfl

/-- A legal write that waits for BUSY has its effect. -/
theorem eq_writeValue_of_waits (hwaits : waitsForBusy (.write width off v) s)
    (h : serve (.write width off v) s = .next t) :
    t = { s.writeValue width off v with replies := s.replies ++ [.written width off v] } := by
  cases hl : legalAccess width off with
  | false => rw [serve_write_illegal hl] at h; cases h
  | true =>
    rw [serve_write_legal hl, serveWrite_of_waits hwaits] at h
    cases h
    rw [State.reply, writeValue_replies]

/-- A legal read that waits for BUSY answers the value there. -/
theorem eq_readValue_of_waits (hwaits : waitsForBusy (.read width off) s) (h : serve (.read width off) s = .next t) :
    t = { s with replies := s.replies ++ [.data width off (s.readValue width off)] } := by
  cases hl : legalAccess width off with
  | false => rw [serve_read_illegal hl] at h; cases h
  | true =>
    rw [serve_read_legal hl, serveRead_of_waits hwaits] at h
    cases h
    rfl

/-- Settles O20: the step serves the access with BUSY as it is, and what waits for BUSY is not dropped. -/
theorem waitingHostLosesNothing : Obligations.WaitingHostLosesNothing := by
  intro s t e rest hp hwait hwaits h u
  have hserve : serve e u = .next t := (step_eq_serve hp hwait).symm.trans h
  have hwaits : waitsForBusy e u := by cases e <;> exact hwaits
  refine ⟨(serve_cases hserve).busyErr_of_waits hwaits, ?_, ?_⟩
  · rintro width off v rfl
    exact eq_writeValue_of_waits hwaits hserve
  · rintro width off rfl
    rw [← readValue_congr s u.wait rest]
    exact eq_readValue_of_waits hwaits hserve

/-! ## A command completes (R238) -/

/-- Every word in the latch ends its command when it is performed, ILLEGAL ones too. -/
theorem perform_completes (w : Word) (s : State) : ∃ t, perform w s = .next t ∧ t.busy = false := by
  cases hd : decode w with
  | ok i =>
    obtain ⟨u, code, hu, -⟩ := exec_effect i s
    exact ⟨u.finish code, (perform_of_decode hd).trans hu, rfl⟩
  | error r => exact ⟨s.finish .illegal, perform_of_illegal hd, rfl⟩

/-- The event is a read or a write that is no BusError. -/
def HostEvent.IsLegalAccess (e : HostEvent) : Prop :=
  ∃ width off, legalAccess width off = true ∧ (e = .read width off ∨ ∃ v, e = .write width off v)

theorem HostEvent.IsLegalAccess.ne_reset (he : e.IsLegalAccess) : e ≠ .reset := by
  obtain ⟨width, off, -, rfl | ⟨v, rfl⟩⟩ := he <;> nofun

theorem HostEvent.IsLegalAccess.completes (he : e.IsLegalAccess) (s : State) : ∃ t, serve e s = .next t := by
  obtain ⟨width, off, hl, rfl | ⟨v, rfl⟩⟩ := he
  · exact ⟨_, serve_read_legal hl⟩
  · exact ⟨_, serve_write_legal hl⟩

/-- The outside's turn goes on, if the next event is a legal access or there is none. -/
theorem hostTurn_completes (hlegal : ∀ e ∈ s.pending.head?, e.IsLegalAccess) : ∃ t, hostTurn s = .next t := by
  cases hp : s.pending with
  | nil => exact ⟨s, hostTurn_of_no_event hp⟩
  | cons e rest =>
    rw [hostTurn_of_event hp]
    exact (hlegal e (by simp [hp])).completes _

/-- Within the latency a step takes the next event, if any, from the queue and one from the latency. -/
theorem step_within_latency {n : Nat} (hl : s.latched = some w) (hw : s.wait = n + 1)
    (hlegal : ∀ e ∈ s.pending.head?, e.IsLegalAccess) :
    ∃ t, step s = .next t ∧ t.latched = some w ∧ t.wait = n ∧ t.pending = s.pending.tail := by
  obtain ⟨t, ht⟩ := hostTurn_completes (s := { s with wait := n }) hlegal
  have hstep : step s = .next t := (step_eq_hostTurn_of_waiting hl hw).trans ht
  have hreset : s.pending.head? ≠ some .reset := fun h => (hlegal _ h).ne_reset rfl
  have heq := inputsCannotChangeWhileBusy s t w n hl hw hreset hstep
  exact ⟨t, hstep, heq ▸ hl, heq ▸ rfl, heq ▸ rfl⟩

/-- Settles O7, by induction on the latency left. -/
theorem commandCompletesAfterItsLatency : Obligations.CommandCompletesAfterItsLatency := by
  intro s w hl hlegal
  induction hw : s.wait generalizing s with
  | zero =>
    obtain ⟨t, ht, hb⟩ := perform_completes w s
    exact ⟨t, run_step ((step_eq_perform hl hw).trans ht) 0, hb⟩
  | succ n ih =>
    have hsplit : s.pending.take (n + 1) = s.pending.head?.toList ++ s.pending.tail.take n := by
      cases s.pending <;> simp
    rw [hw, hsplit, List.forall_mem_append] at hlegal
    obtain ⟨hhead, htail⟩ := hlegal
    obtain ⟨u, hu, hul, huw, hup⟩ := step_within_latency hl hw fun e he => hhead e (Option.mem_toList.mpr he)
    obtain ⟨t, ht, hb⟩ := ih u hul (by rwa [huw, hup]) huw
    exact ⟨t, (run_step hu (n + 1)).trans ht, hb⟩

/-! ## Reset (R230, R231) -/

/-- Settles O22: of `State.reset` a reset leaves only the fields outside the FBC at other values. -/
theorem resetValues : Obligations.ResetValues := by
  unfold Obligations.ResetValues
  intro atReset
  have hstatus : State.reset.statusWord = 0#32 := by decide
  have hold (pending : List HostEvent) (replies : List Reply) (draws resets : Nat) : atReset { State.reset with
      pending := pending, replies := replies, draws := draws, resets := resets } :=
    ⟨rfl, rfl, rfl, rfl, rfl, hstatus, rfl, rfl, rfl, rfl, rfl, rfl, rfl, rfl, rfl, rfl, rfl, rfl, fun _ => rfl⟩
  exact ⟨hold [] [] 0 0, fun s => ⟨s.afterReset, rfl, hold _ _ _ _⟩⟩

end Sys2Proof.Machine

/-! Bytes that nothing has written since reset (O57). -/

namespace Sys2Proof.Machine

variable {s : State} {n : Nat} {i : Instr}

/-- The state with the free values of another count of resets (log 1). -/
def State.withResets (n : Nat) (s : State) : State := { s with resets := n }

/-- 70_reset_and_hazards.md R236: bytes that are all written are what was written, whatever the free values are. -/
theorem bytes_withResets {a k : Nat} (h : ∀ x ∈ (List.range k).map (a + ·), (s.mem.read x).isSome) :
    (s.withResets n).bytes a k = s.bytes a k := by
  refine State.bytes_congr fun j hj => ?_
  obtain ⟨b, hb⟩ := Option.isSome_iff_exists.mp (h (a + j) (List.mem_map_of_mem (List.mem_range.mpr hj)))
  simp [State.byteAt, State.withResets, hb]

/-- The input of a command that reads IBUF[0..INLEN). -/
theorem input_withResets (h : ∀ x ∈ (List.range s.inLen.toNat).map (ibufOff + ·), (s.mem.read x).isSome) :
    (s.withResets n).input = s.input := bytes_withResets h

theorem chainStart_withResets (chs : ChainStart) : (s.withResets n).chainStart chs = s.chainStart chs := by
  cases chs <;> rfl

/-! ## The commands -/

theorem withKeyAndInput_withResets {body body' : Host.Outcome State Fault Refusal}
    (hbody : body' = mapNext (.withResets n) body) :
    withKeyAndInput (s.withResets n) body' = mapNext (.withResets n) (withKeyAndInput s body) :=
  ite_eq_apply_ite .rfl (fun _ => rfl) fun _ => ite_eq_apply_ite .rfl (fun _ => rfl) fun _ => hbody

theorem blockCommand_withResets (f : Schedule → Block → Block) :
    blockCommand f (s.withResets n) = mapNext (.withResets n) (blockCommand f s) :=
  ite_eq_apply_ite .rfl (fun _ => rfl) fun _ => rfl

theorem encodeCommand_withResets (f : List Byte → List Byte) (hin : (s.withResets n).input = s.input) :
    encodeCommand f (s.withResets n) = mapNext (.withResets n) (encodeCommand f s) :=
  ite_eq_apply_ite .rfl (fun _ => rfl) fun _ =>
    ite_eq_apply_ite (by rw [hin]) (fun _ => rfl) fun _ => by rw [hin]; rfl

/-- A command does the same with other free values, if it reads written bytes only. -/
theorem exec_withResets (h : readsWritten i s) : exec i (s.withResets n) = mapNext (.withResets n) (exec i s) := by
  cases i with
  | nop => rfl
  | keyInit cap56 =>
    have hkey : (s.withResets n).effectiveKey cap56 = s.effectiveKey cap56 := bytes_withResets h
    refine ite_eq_apply_ite .rfl (fun _ => rfl) fun _ => ?_
    rw [hkey]
    generalize schedule initTables (s.effectiveKey cap56) = sc
    rfl
  | encBlk => exact blockCommand_withResets encipher
  | decBlk => exact blockCommand_withResets decipher
  | ecbEnc => exact withKeyAndInput_withResets (by rw [input_withResets h]; rfl)
  | ecbDec => exact withKeyAndInput_withResets (by rw [input_withResets h]; rfl)
  | cbcEnc chs piv =>
    have hsource : (s.withResets n).cbcSource piv = s.cbcSource piv := by
      rw [State.cbcSource, input_withResets h]; rfl
    exact withKeyAndInput_withResets (by rw [hsource, chainStart_withResets]; rfl)
  | cbcDec chs drop => exact withKeyAndInput_withResets (by rw [input_withResets h, chainStart_withResets]; rfl)
  | ivGen => rfl
  | b64Enc wrap =>
    exact encodeCommand_withResets (fun src => if wrap then wrap76 (b64 src) else b64 src) (input_withResets h)
  | b64Dec strict =>
    refine ite_eq_apply_ite .rfl (fun _ => rfl) fun _ => ?_
    rw [input_withResets h]
    cases b64dec s.input strict <;> rfl
  | lb64Enc => exact encodeCommand_withResets legEnc (input_withResets h)
  | lb64Dec => exact ite_eq_apply_ite .rfl (fun _ => rfl) fun _ => by rw [input_withResets h]; rfl
  | xfer =>
    have hout : (s.withResets n).obuf (s.withResets n).outLen.toNat = s.obuf s.outLen.toNat := bytes_withResets h
    exact ite_eq_apply_ite .rfl (fun _ => rfl) fun _ => by rw [hout]; rfl

/-- Settles O57: a command completes, and the free values reach nothing but themselves. -/
theorem writtenBytesDecideTheResult : Obligations.WrittenBytesDecideTheResult := by
  intro i s n h
  obtain ⟨u, code, hu, -⟩ := exec_effect i s
  refine ⟨u.finish code, hu, (exec_withResets h).trans ?_⟩
  rw [hu]
  rfl

end Sys2Proof.Machine
